-- ==== Sys2Proof/Word.lean ====
section
/-! DEFINITION. The words of the block: bytes, the 36-bit command word (30_encoding.md R50, R51), the 32-bit float word
(R69) and the 139-bit signed result of the float-decode unit (41_f32_decode.md R108). -/

namespace Sys2Proof

/-- One byte of the wire (20_memory.md R30). -/
abbrev Byte := BitVec 8

/-- A command word, `cmd[35:0]` with `op = cmd[3:0]` and `arg = cmd[35:4]` (30_encoding.md R50, R51). -/
abbrev CmdWord := BitVec 36

/-- The word the float-decode unit assembles (30_encoding.md R69). -/
abbrev Word32 := BitVec 32

/-- `rsp_milli`, a two's-complement integer of `MILLI_W = 139` bits (00_scope.md R5, 41_f32_decode.md R108). -/
abbrev MilliWord := BitVec 139

end Sys2Proof
end

