-- ==== Sys2Proof/Config.lean ====
section
/-! DEFINITION. The parameters of the block (00_scope.md R5). `REC_W` is the one the spec leaves open to an argument of the
model: it is an opaque constant here, so nothing can be proved about it but that it is positive. `SCHED`, the other open
parameter, is plain data of the state (`State.sched`). -/

namespace Sys2Proof

/-- `REC_W` less one. No body: nothing in Lean can evaluate it (00_scope.md R5, 92_eei_decisions.md D15).
DESIGN CHOICE, safe: notes/assumptions/1.md. -/
opaque Config.recWLessOne : Nat

/-- `REC_W`, the width in bits of the opaque payload of one FIFO entry: "a positive integer the model takes as an
argument" (00_scope.md R5). -/
def Config.recW : Nat := Config.recWLessOne + 1

/-- `CRC_POLY`, x^8 + x^5 + x^4 + 1 without the x^8 term (00_scope.md R5, 40_crc8.md R80). -/
abbrev Config.crcPoly : Byte := 0x31

/-- `CRC_INIT`, loaded at the start of every call (00_scope.md R5, 40_crc8.md R80). -/
abbrev Config.crcInit : Byte := 0xFF

/-- The payload of one FIFO entry, also the width of the buses `wdata` and `rsp_rdata` (30_encoding.md R54, R59). -/
abbrev Payload := BitVec Config.recW

end Sys2Proof
end

