-- ==== Sys2Proof/Syntax.lean ====
section
/-! DEFINITION. The five operations of the block, one constructor for each row of spec/opcode_table.json (30_encoding.md
R56). The operands are the fields of the command word; the payload of `FIFO.PUSH` is no field of it, it comes on the side
input `wdata` (R54), which the state holds. -/

namespace Sys2Proof

/-- The operations (30_encoding.md R56). Every value of this type is a legal operation: the operands' types are their
encodings' fields (R52). -/
inductive Instr where
  /-- `CRC.CALC d0, d1` (format `B2`, 40_crc8.md R82). -/
  | crcCalc (d0 d1 : Byte)
  /-- `CRC.CHK d0, d1, c` (format `B3`, 40_crc8.md R85). -/
  | crcChk (d0 d1 c : Byte)
  /-- `F32.DEC b0, b1, b2, b3` (format `W`, 41_f32_decode.md R100). -/
  | f32Dec (b0 b1 b2 b3 : Byte)
  /-- `FIFO.PUSH present`, the payload being on `wdata` (format `P`, 42_fifo.md R122). -/
  | fifoPush (present : Bool)
  /-- `FIFO.POP` (format `Z`, 42_fifo.md R126). -/
  | fifoPop
  deriving DecidableEq, Repr

end Sys2Proof
end

