-- ==== Sys2Proof/WellFormed.lean ====
section
/-! DEFINITION. What is well-formed and what is not, where a check is needed. An `Instr` needs none: its operands' types
are the fields of its format. A line of assembler text carries numbers, which the table of 30_encoding.md R65 bounds; a
command word has an opcode that must be assigned (R57) and bits that must be zero (R58). -/

namespace Sys2Proof

/-- A line of assembler text with its operands as the numbers written (30_encoding.md R65), the pseudo-instructions of R66
among them. -/
inductive AsmLine where
  | crcCalc (d0 d1 : Nat)
  | crcChk (d0 d1 c : Nat)
  | f32Dec (b0 b1 b2 b3 : Nat)
  | fifoPush (present data : Nat)
  | fifoPop
  /-- `F32.DECW w` (R66). -/
  | f32DecW (w : Nat)
  /-- `FIFO.PUSHR data` (R66). -/
  | fifoPushR (data : Nat)
  /-- `FIFO.PUSHE` (R66). -/
  | fifoPushE
  deriving DecidableEq, Repr

/-- A number fits in `bits` bits. -/
def fitsBits (bits v : Nat) : Bool := decide (v < 2 ^ bits)

/-- The operand ranges of R65: bytes are 0 to 255, `present` is 0 or 1, `data` has `REC_W` bits. -/
def AsmLine.wf : AsmLine → Bool
  | .crcCalc d0 d1 => fitsBits 8 d0 && fitsBits 8 d1
  | .crcChk d0 d1 c => fitsBits 8 d0 && fitsBits 8 d1 && fitsBits 8 c
  | .f32Dec b0 b1 b2 b3 => fitsBits 8 b0 && fitsBits 8 b1 && fitsBits 8 b2 && fitsBits 8 b3
  | .fifoPush present data => fitsBits 1 present && fitsBits Config.recW data
  | .fifoPop => true
  | .f32DecW w => fitsBits 32 w
  | .fifoPushR data => fitsBits Config.recW data
  | .fifoPushE => true

/-- `op = cmd[3:0]` (30_encoding.md R51). -/
def opOf (w : CmdWord) : BitVec 4 := w.extractLsb' 0 4

/-- `arg = cmd[35:4]` (30_encoding.md R51). -/
def argOf (w : CmdWord) : BitVec 32 := w.extractLsb' 4 32

/-- The operation codes that select an operation (30_encoding.md R56, R57). -/
def opAssigned (op : BitVec 4) : Bool := decide (1 ≤ op.toNat ∧ op.toNat ≤ 5)

/-- The bits marked `0` in the table of 30_encoding.md R52, for an assigned operation code, are zero (R58). -/
def reservedBitsZero (w : CmdWord) : Bool :=
  match (opOf w).toNat with
  | 1 => (argOf w).extractLsb' 16 16 == 0
  | 2 => (argOf w).extractLsb' 24 8 == 0
  | 4 => (argOf w).extractLsb' 1 31 == 0
  | 5 => argOf w == 0
  | _ => true

/-- A command word that is one of the five operations (30_encoding.md R57, R58). -/
def legalWord (w : CmdWord) : Bool := opAssigned (opOf w) && reservedBitsZero w

end Sys2Proof
end

