-- ==== Sys2Proof/Decode.lean ====
section
/-! DEFINITION. The decoder of command words (30_encoding.md R62), total on every 36-bit word and refusing by name; the
encoder from the same tables (R52, R56); the opcode table with its masks and patterns (R56); the assembler of R65 and R66. -/

namespace Sys2Proof

/-- Why a command word is no operation. Both reasons end in the same outcome, `ILLEGAL` (30_encoding.md R57, R58). -/
inductive Illegal where
  /-- The operation code selects no operation (R57). -/
  | reservedOpcode (op : BitVec 4)
  /-- A bit that must be zero is set (R58). -/
  | reservedBits (op : BitVec 4)
  deriving DecidableEq, Repr

/-- `arg[31:24]`, the first byte of format `W` (30_encoding.md R52). -/
def argByte3 (w : CmdWord) : Byte := (argOf w).extractLsb' 24 8

/-- `arg[23:16]` (30_encoding.md R52). -/
def argByte2 (w : CmdWord) : Byte := (argOf w).extractLsb' 16 8

/-- `arg[15:8]` (30_encoding.md R52). -/
def argByte1 (w : CmdWord) : Byte := (argOf w).extractLsb' 8 8

/-- `arg[7:0]` (30_encoding.md R52). -/
def argByte0 (w : CmdWord) : Byte := (argOf w).extractLsb' 0 8

/-- `arg[0]`, the `present` bit of format `P` (30_encoding.md R52). -/
def argPresent (w : CmdWord) : Bool := (argOf w).getLsbD 0

/-- Decoding, arm by arm as the listing of 30_encoding.md R62. -/
def decode (w : CmdWord) : Except Illegal Instr :=
  let op := opOf w
  let arg := argOf w
  match op.toNat with
  | 1 =>
    if arg.extractLsb' 16 16 = 0 then .ok (.crcCalc (argByte1 w) (argByte0 w)) else .error (.reservedBits op)
  | 2 =>
    if arg.extractLsb' 24 8 = 0 then .ok (.crcChk (argByte2 w) (argByte1 w) (argByte0 w))
    else .error (.reservedBits op)
  | 3 => .ok (.f32Dec (argByte3 w) (argByte2 w) (argByte1 w) (argByte0 w))
  | 4 => if arg.extractLsb' 1 31 = 0 then .ok (.fifoPush (argPresent w)) else .error (.reservedBits op)
  | 5 => if arg = 0 then .ok .fifoPop else .error (.reservedBits op)
  | _ => .error (.reservedOpcode op)

/-- The command word of an operation: the formulas of 30_encoding.md R65, whose fields stand where the encoding strings of
R56 have them. -/
def encode : Instr → CmdWord
  | .crcCalc d0 d1 => (d0.setWidth 36 <<< 12) ||| (d1.setWidth 36 <<< 4) ||| 0x1
  | .crcChk d0 d1 c => (d0.setWidth 36 <<< 20) ||| (d1.setWidth 36 <<< 12) ||| (c.setWidth 36 <<< 4) ||| 0x2
  | .f32Dec b0 b1 b2 b3 =>
    (b0.setWidth 36 <<< 28) ||| (b1.setWidth 36 <<< 20) ||| (b2.setWidth 36 <<< 12) ||| (b3.setWidth 36 <<< 4) ||| 0x3
  | .fifoPush present => ((BitVec.ofBool present).setWidth 36 <<< 4) ||| 0x4
  | .fifoPop => 0x5

/-- One row of the opcode map (30_encoding.md R56): a word `w` selects it when `w AND mask = pattern`. -/
structure OpRow where
  mnemonic : String
  mask : CmdWord
  pattern : CmdWord
  deriving DecidableEq, Repr

/-- The row of an operation in the table of 30_encoding.md R56. -/
def rowOf : Instr → OpRow
  | .crcCalc _ _ => ⟨"CRC.CALC", 0xFFFF0000F, 0x000000001⟩
  | .crcChk _ _ _ => ⟨"CRC.CHK", 0xFF000000F, 0x000000002⟩
  | .f32Dec _ _ _ _ => ⟨"F32.DEC", 0x00000000F, 0x000000003⟩
  | .fifoPush _ => ⟨"FIFO.PUSH", 0xFFFFFFFEF, 0x000000004⟩
  | .fifoPop => ⟨"FIFO.POP", 0xFFFFFFFFF, 0x000000005⟩

/-- The opcode map, in the table's order (30_encoding.md R56). -/
def opcodeTable : List OpRow :=
  [rowOf (.crcCalc 0 0), rowOf (.crcChk 0 0 0), rowOf (.f32Dec 0 0 0 0), rowOf (.fifoPush false), rowOf .fifoPop]

/-- `w` selects the row (30_encoding.md R56). -/
def OpRow.selects (r : OpRow) (w : CmdWord) : Bool := (w &&& r.mask) == r.pattern

/-- The expansions of the pseudo-instructions (30_encoding.md R66); every other line stands for itself. -/
def AsmLine.expand : AsmLine → AsmLine
  | .f32DecW w => .f32Dec ((w >>> 24) % 256) ((w >>> 16) % 256) ((w >>> 8) % 256) (w % 256)
  | .fifoPushR data => .fifoPush 1 data
  | .fifoPushE => .fifoPush 0 0
  | .crcCalc d0 d1 => .crcCalc d0 d1
  | .crcChk d0 d1 c => .crcChk d0 d1 c
  | .f32Dec b0 b1 b2 b3 => .f32Dec b0 b1 b2 b3
  | .fifoPush present data => .fifoPush present data
  | .fifoPop => .fifoPop

/-- `cmd` of an expanded line as a number, by the formulas of 30_encoding.md R65. -/
def AsmLine.cmdNat : AsmLine → Nat
  | .crcCalc d0 d1 => (d0 <<< 12) ||| (d1 <<< 4) ||| 0x1
  | .crcChk d0 d1 c => (d0 <<< 20) ||| (d1 <<< 12) ||| (c <<< 4) ||| 0x2
  | .f32Dec b0 b1 b2 b3 => (b0 <<< 28) ||| (b1 <<< 20) ||| (b2 <<< 12) ||| (b3 <<< 4) ||| 0x3
  | .fifoPush present _ => (present <<< 4) ||| 0x4
  | .fifoPop => 0x000000005
  | .f32DecW w => (w <<< 4) ||| 0x3
  | .fifoPushR _ => (1 <<< 4) ||| 0x4
  | .fifoPushE => 0x4

/-- `wdata` of an expanded line: the payload of a push (30_encoding.md R65, R66). The spec gives the bus no value for the
lines of the other operations, which ignore it (R54); they stand for 0. DESIGN CHOICE, safe: notes/assumptions/17.md. -/
def AsmLine.wdataNat : AsmLine → Nat
  | .fifoPush _ data => data
  | .fifoPushR data => data
  | .fifoPushE => 0
  | .crcCalc _ _ => 0
  | .crcChk _ _ _ => 0
  | .f32Dec _ _ _ _ => 0
  | .fifoPop => 0
  | .f32DecW _ => 0

/-- The command word and the `wdata` a line of assembler text stands for (30_encoding.md R65, R66); nothing for a line
whose operands are out of range. -/
def assemble (l : AsmLine) : Option (CmdWord × Payload) :=
  if l.wf then some (BitVec.ofNat 36 l.expand.cmdNat, BitVec.ofNat Config.recW l.expand.wdataNat) else none

/-- The operation the decoder reads from the opcode table's word of `nbits` bits with the value `w`. The hardware has one
36-bit command word and no bytes or operand words behind it (30_encoding.md R50), so a value with a bit above bit 35 is no
command (log entry 15). -/
def decodeTableWord (nbits w : Nat) : Option Instr :=
  let v := w % 2 ^ nbits
  if v < 2 ^ 36 then (decode (BitVec.ofNat 36 v)).toOption else none

end Sys2Proof
end

