-- ==== Sys2Proof/Machine/State.lean ====
section
/-! DEFINITION. The state of the machine as plain data: the FIFO registers, which are the whole persistent state of the
block (10_state.md R13 to R15), its input bus and its response port, and what the agents around it have still to do
(20_memory.md R38). The reset state (R24). The reasons to stop: there is none in the spec (60_exceptions.md R149,
70_reset_and_hazards.md R165). -/

namespace Sys2Proof.Machine

/-- One FIFO entry, `present` and `data` (10_state.md R13, 30_encoding.md R70). `present = true` marks a Measurement
Record, `present = false` an empty placeholder; the block never looks inside `data`. -/
structure Entry where
  present : Bool
  data : Payload
  deriving DecidableEq, Repr

/-- `rsp_status` (60_exceptions.md R141): exactly five values, the codes 5 to 7 being never produced. -/
inductive Status where
  | ok
  | crcMismatch
  | nonfinite
  | empty
  | illegal
  deriving DecidableEq, Repr

/-- `rsp_class` (41_f32_decode.md R103): exactly five values, the codes 5 to 7 being never produced. -/
inductive FloatClass where
  | zero
  | subnormal
  | normal
  | infinity
  | nan
  deriving DecidableEq, Repr

/-- The response of one command, field by field (30_encoding.md R59). -/
structure Response where
  /-- `rsp_status`. -/
  status : Status
  /-- `rsp_crc`: the checksum computed over `d0`, `d1`. -/
  crc : Byte
  /-- `rsp_ok`: the word is valid. -/
  ok : Bool
  /-- `rsp_word`: the assembled 32-bit word. -/
  word : Word32
  /-- `rsp_sign = rsp_word[31]`. -/
  sign : Bool
  /-- `rsp_exp = rsp_word[30:23]`. -/
  exp : BitVec 8
  /-- `rsp_frac = rsp_word[22:0]`. -/
  frac : BitVec 23
  /-- `rsp_class`. -/
  cls : FloatClass
  /-- `rsp_milli`, read as a signed integer. -/
  milli : MilliWord
  /-- `rsp_evicted`: this push destroyed the oldest entry. -/
  evicted : Bool
  /-- `rsp_got`: an entry was removed and returned. -/
  got : Bool
  /-- `rsp_present`: the `present` bit of the returned entry. -/
  present : Bool
  /-- `rsp_rdata`: the `data` of the returned entry. -/
  rdata : Payload
  deriving DecidableEq, Repr

/-- A command as an agent presents it: the command word and the value on the `wdata` bus (30_encoding.md R50, R54). -/
structure Request where
  cmd : CmdWord
  wdata : Payload
  deriving DecidableEq, Repr

/-- Whose turn a step is (20_memory.md R38, 70_reset_and_hazards.md R161): one agent's, which issues its next command, or
the platform's, which asserts `rst` between commands. -/
inductive Turn where
  | producer
  | consumer
  | rst
  deriving DecidableEq, Repr

/-- Everything the machine holds. The first three fields are the block's state (10_state.md R13 to R15). `head` and
`count` are 5-bit registers of which the spec gives only the values 0 to 19 and 0 to 20 a meaning, so the type holds no
other (R17, 93_implementation_defined.md U19; log entry 9). The other fields are the model's own (log entries 2, 3, 4). -/
structure State where
  /-- The storage array `slot[0 .. 19]` (R13). -/
  slot : Vector Entry 20
  /-- The index of the oldest entry (R14). -/
  head : Fin 20
  /-- The number of stored entries (R15). -/
  count : Fin 21
  /-- The input bus as sampled with the command last accepted (30_encoding.md R54). -/
  wdata : Payload
  /-- The response of the command executed in the step that led here, if that step executed one (30_encoding.md R59,
  10_state.md R23). -/
  rsp : Option Response
  /-- The producer's commands still to be issued, in its own order (20_memory.md R38). -/
  producer : List Request
  /-- The consumer's commands still to be issued, in its own order (20_memory.md R38). -/
  consumer : List Request
  /-- The turns still to come: `SCHED`, with the resets among them (00_scope.md R5, 20_memory.md R38). -/
  sched : List Turn
  deriving DecidableEq, Repr

/-- Reasons for the machine to stop with a fault. The spec has none: nothing traps, every abnormal outcome is a status
code of the response (60_exceptions.md R140, R149), and no command hangs (70_reset_and_hazards.md R165). -/
inductive Fault where
  deriving DecidableEq, Repr

/-- Reasons to refuse an instruction. -/
inductive Refusal where
  /-- The operation has no meaning in the model. Raised by nobody: each of the five operations has its meaning. It would
  be safe: a run that stops here proves nothing false. -/
  | notModelled (mnemonic : String)
  deriving DecidableEq, Repr

/-- What a slot holds after reset. The spec leaves it unspecified and shows it unobservable (10_state.md R24, R20); a
placeholder of zeros is the model's choice. DESIGN CHOICE, unsafe: notes/assumptions/5.md. -/
def Entry.atReset : Entry := ⟨false, 0⟩

/-- The machine right after reset (10_state.md R24, 70_reset_and_hazards.md R160): the FIFO is empty and no response is
pending. Nothing has been handed to the agents yet (DESIGN CHOICE, log entries 2 and 7). -/
def State.reset : State where
  slot := Vector.replicate 20 Entry.atReset
  head := 0
  count := 0
  wdata := 0
  rsp := none
  producer := []
  consumer := []
  sched := []

end Sys2Proof.Machine
end

