-- ==== Sys2Proof/Machine/Ops.lean ====
section
/-! DEFINITION. The named operations over the state: reading and writing a slot, the index arithmetic modulo 20, moving an
entry in and out of the ring, giving a response, raising a status (the block's only exception), reset, and taking the next
turn of the command stream. -/

namespace Sys2Proof.Machine

/-- What one step answers. -/
abbrev Answer := Host.Outcome State Fault Refusal

/-- The response with every field zero, which each operation fills in (30_encoding.md R61). The class code zero is `ZERO`
and the status code zero is `OK` (log entry 10). -/
def Response.zero : Response where
  status := .ok
  crc := 0
  ok := false
  word := 0
  sign := false
  exp := 0
  frac := 0
  cls := .zero
  milli := 0
  evicted := false
  got := false
  present := false
  rdata := 0

/-- A response that carries a status and nothing else. -/
def Response.only (st : Status) : Response := { Response.zero with status := st }

/-- The command returns `r` (60_exceptions.md R140): one response, which replaces whatever the port showed. -/
def State.respond (r : Response) (s : State) : State := { s with rsp := some r }

/-- `raise st` (00_scope.md R7, 60_exceptions.md R143): the command ends with status `st`, every response field zero and no
state element written. It is all that takes the place of an exception: no state is saved, no mode changes, nothing is
redirected and there is no return from it (R149). -/
def raise (st : Status) (s : State) : Answer := .next (s.respond (Response.only st))

/-- What a command word that is no operation does (30_encoding.md R57, R58): it raises `ILLEGAL`. -/
def execIllegal (s : State) : Answer := raise .illegal s

/-- `MemRead(i, 1)`: the entry in slot `i` (00_scope.md R7). -/
def State.readSlot (s : State) (i : Fin 20) : Entry := s.slot[i]

/-- `MemWrite(i, 1, e)`: entry `e` into slot `i` (00_scope.md R7). -/
def State.writeSlot (s : State) (i : Fin 20) (e : Entry) : State := { s with slot := s.slot.set i e }

/-- `(head + n) mod 20`, computed on the unbounded sum (43_arithmetic_and_absent_families.md R172). -/
def slotIndex (head : Fin 20) (n : Nat) : Fin 20 := ⟨(head.val + n) % 20, Nat.mod_lt _ (by decide)⟩

/-- `(head + 1) mod 20` (42_fifo.md R130). -/
def nextIndex (head : Fin 20) : Fin 20 := slotIndex head 1

/-- `count + 1`, which is evaluated only below 20 (43_arithmetic_and_absent_families.md R172). -/
def incCount (c : Fin 21) : Fin 21 := if h : c.val < 20 then ⟨c.val + 1, by omega⟩ else c

/-- `count - 1`, which is evaluated only above 0 (43_arithmetic_and_absent_families.md R172). -/
def decCount (c : Fin 21) : Fin 21 := ⟨c.val - 1, by omega⟩

/-- The push into a unit that is not full (42_fifo.md R122): the slot behind the newest entry, and `count + 1`. -/
def State.appendNewest (e : Entry) (s : State) : State :=
  { s.writeSlot (slotIndex s.head s.count.val) e with count := incCount s.count }

/-- The push into a full unit (42_fifo.md R122): the oldest slot becomes the newest, `count` stays. -/
def State.replaceOldest (e : Entry) (s : State) : State :=
  { s.writeSlot s.head e with head := nextIndex s.head }

/-- The removal of the oldest entry (42_fifo.md R126); the slot keeps its old bits. -/
def State.removeOldest (s : State) : State :=
  { s with head := nextIndex s.head, count := decCount s.count }

/-- What `rst` does (70_reset_and_hazards.md R160): the block is as after reset and no response is pending; the agents
around it are not touched (log entry 13). -/
def State.resetBlock (s : State) : State :=
  { s with slot := State.reset.slot, head := State.reset.head, count := State.reset.count, rsp := none }

/-- What the next turn of the command stream brings (20_memory.md R37, R38). -/
inductive Event where
  /-- No command is presented: the block is idle and holds its state (60_exceptions.md R156). -/
  | idle
  /-- `rst` is asserted between two commands (70_reset_and_hazards.md R161). -/
  | rst
  /-- The agent whose turn it is presents its next command. -/
  | command (r : Request)
  deriving DecidableEq, Repr

/-- The event of an agent's turn: its oldest command, if it has one left (log entry 6). -/
def eventOf (pending : List Request) : Event :=
  match pending with
  | [] => .idle
  | r :: _ => .command r

/-- The event the schedule brings next (20_memory.md R38). -/
def State.nextEvent (s : State) : Event :=
  match s.sched with
  | [] => .idle
  | .rst :: _ => .rst
  | .producer :: _ => eventOf s.producer
  | .consumer :: _ => eventOf s.consumer

/-- The turn is over: it leaves the schedule, and the agent whose turn it was has issued its oldest command. -/
def State.takeTurn (s : State) : State :=
  match s.sched with
  | [] => s
  | .rst :: ts => { s with sched := ts }
  | .producer :: ts => { s with sched := ts, producer := s.producer.tail }
  | .consumer :: ts => { s with sched := ts, consumer := s.consumer.tail }

/-- The block accepts a command: the turn is taken and `wdata` is sampled (30_encoding.md R54). -/
def State.accept (r : Request) (s : State) : State := { s.takeTurn with wdata := r.wdata }

/-- A step in which no command is presented: the turn is taken, the block holds its state and there is no response (log
entry 6). -/
def State.idle (s : State) : State := { s.takeTurn with rsp := none }

/-- The state with a command word placed as the very next command to be accepted, with zeros on `wdata`: the producer's
oldest command, and the producer's turn (log entry 7). -/
def State.placeCommand (s : State) (cmd : CmdWord) : State :=
  { s with producer := ⟨cmd, 0⟩ :: s.producer, sched := .producer :: s.sched }

end Sys2Proof.Machine
end

