-- ==== Sys2Proof/Machine/Operands.lean ====
section
/-! DEFINITION. What the operations make of their operands: the float word assembled from four bytes and its fields
(format `W`), and the FIFO entry assembled from `present` and `wdata` (format `P`). The operands of the formats `B2` and
`B3` are bytes taken as they are, and format `Z` has none (30_encoding.md R52, R53). -/

namespace Sys2Proof.Machine

/-- `(b0 << 24) OR (b1 << 16) OR (b2 << 8) OR b3` in 32 bits (30_encoding.md R53, 41_f32_decode.md R100). -/
def word32 (b0 b1 b2 b3 : Byte) : Word32 :=
  (b0.setWidth 32 <<< 24) ||| (b1.setWidth 32 <<< 16) ||| (b2.setWidth 32 <<< 8) ||| b3.setWidth 32

/-- `s = w[31]` (41_f32_decode.md R101). -/
def f32Sign (w : Word32) : Bool := w.getLsbD 31

/-- `e = w[30:23]` (41_f32_decode.md R101). -/
def f32Exp (w : Word32) : BitVec 8 := w.extractLsb' 23 8

/-- `f = w[22:0]` (41_f32_decode.md R101). -/
def f32Frac (w : Word32) : BitVec 23 := w.extractLsb' 0 23

/-- The entry a push stores: `e = {present, data}` with `data` the sampled `wdata` (42_fifo.md R122). -/
def State.pushedEntry (present : Bool) (s : State) : Entry := ⟨present, s.wdata⟩

end Sys2Proof.Machine
end

