-- ==== Sys2Proof/Machine/Crc.lean ====
section
/-! DEFINITION. The CRC-8 unit: the function (40_crc8.md R81) and the meanings of `CRC.CALC` (R82) and `CRC.CHK` (R85). It
reads no state and writes none but the response. -/

namespace Sys2Proof.Machine

/-- One iteration of the inner loop (40_crc8.md R81): the top bit is tested before the shift and discarded by it, the XOR
comes after. -/
def crcShift (crc : Byte) : Byte :=
  if crc.getLsbD 7 then (crc <<< 1) ^^^ Config.crcPoly else crc <<< 1

/-- `n` iterations of the inner loop (40_crc8.md R81). -/
def crcShifts : Nat → Byte → Byte
  | 0, crc => crc
  | n + 1, crc => crcShifts n (crcShift crc)

/-- One pass of the outer loop (40_crc8.md R81): the byte is XORed in, then eight iterations. -/
def crcByte (crc b : Byte) : Byte := crcShifts 8 (crc ^^^ b)

/-- The loop of 40_crc8.md R81 over a list of bytes, first byte first, from the seed. -/
def crcBytes (bs : List Byte) : Byte := bs.foldl crcByte Config.crcInit

/-- `crc8(d0, d1)` (40_crc8.md R81). -/
def crc8 (d0 d1 : Byte) : Byte := crcBytes [d0, d1]

/-- The response of `CRC.CALC` (40_crc8.md R82). -/
def crcCalcResponse (d0 d1 : Byte) : Response := { Response.zero with status := .ok, crc := crc8 d0 d1 }

/-- The response of `CRC.CHK` (40_crc8.md R85). -/
def crcChkResponse (d0 d1 c : Byte) : Response :=
  if crc8 d0 d1 = c then { Response.zero with status := .ok, crc := crc8 d0 d1, ok := true }
  else { Response.zero with status := .crcMismatch, crc := crc8 d0 d1, ok := false }

/-- `CRC.CALC d0, d1` (40_crc8.md R82). -/
def execCrcCalc (d0 d1 : Byte) (s : State) : Answer := .next (s.respond (crcCalcResponse d0 d1))

/-- `CRC.CHK d0, d1, c` (40_crc8.md R85). -/
def execCrcChk (d0 d1 c : Byte) (s : State) : Answer := .next (s.respond (crcChkResponse d0 d1 c))

end Sys2Proof.Machine
end

