-- ==== Sys2Proof/Machine/F32.lean ====
section
/-! DEFINITION. The float-decode unit: the class (41_f32_decode.md R103), the integer algorithm for `milli` (R109) and the
meaning of `F32.DEC` (R100). It reads no state and writes none but the response. The integers are unbounded, as
43_arithmetic_and_absent_families.md R171 says. -/

namespace Sys2Proof.Machine

/-- `class(e, f)` (41_f32_decode.md R103). -/
def f32Class (e : BitVec 8) (f : BitVec 23) : FloatClass :=
  if e.toNat = 0 then
    if f.toNat = 0 then .zero else .subnormal
  else if e.toNat = 255 then
    if f.toNat = 0 then .infinity else .nan
  else .normal

/-- `sig` (41_f32_decode.md R109). -/
def f32Sig (e f : Nat) : Nat := if e = 0 then f else 2 ^ 23 + f

/-- `sh`, from -104 to 149 (41_f32_decode.md R109). -/
def f32Shift (e : Nat) : Int := if e = 0 then 149 else 150 - (e : Int)

/-- `n / 2^k` rounded to an integer, ties to even, for `k` above 0 (41_f32_decode.md R109, R110). -/
def roundShift (n k : Nat) : Nat :=
  let q := n >>> k
  let r := n % 2 ^ k
  let half := 2 ^ (k - 1)
  if half < r ∨ (r = half ∧ q % 2 = 1) then q + 1 else q

/-- The magnitude `q` (41_f32_decode.md R109). -/
def milliMagnitude (e f : Nat) : Nat :=
  let n := f32Sig e f * 1000
  let sh := f32Shift e
  if sh ≤ 0 then n <<< (-sh).toNat else roundShift n sh.toNat

/-- `milli(s, e, f)` (41_f32_decode.md R107, R109): the sign is attached after the rounding. -/
def milli (sign : Bool) (e f : Nat) : Int :=
  if sign then -(milliMagnitude e f : Int) else (milliMagnitude e f : Int)

/-- The response of `F32.DEC` to the word `w` (41_f32_decode.md R100). -/
def f32Response (w : Word32) : Response :=
  let r : Response := { Response.zero with
    word := w, sign := f32Sign w, exp := f32Exp w, frac := f32Frac w, cls := f32Class (f32Exp w) (f32Frac w) }
  if (f32Exp w).toNat = 255 then { r with milli := 0, status := .nonfinite }
  else { r with
    milli := BitVec.ofInt 139 (milli (f32Sign w) (f32Exp w).toNat (f32Frac w).toNat), status := .ok }

/-- `F32.DEC b0, b1, b2, b3` (41_f32_decode.md R100). -/
def execF32Dec (b0 b1 b2 b3 : Byte) (s : State) : Answer := .next (s.respond (f32Response (word32 b0 b1 b2 b3)))

end Sys2Proof.Machine
end

