-- ==== Sys2Proof/Machine/Fifo.lean ====
section
/-! DEFINITION. The ring-buffer FIFO unit: the meanings of `FIFO.PUSH` (42_fifo.md R122) and `FIFO.POP` (R126) on the ring
registers, and the abstract content `Q` (10_state.md R16). -/

namespace Sys2Proof.Machine

/-- The response of a push (42_fifo.md R122). -/
def pushResponse (evicted : Bool) : Response := { Response.zero with status := .ok, evicted := evicted }

/-- The response of a pop that removes `e` (42_fifo.md R126). -/
def popResponse (e : Entry) : Response :=
  { Response.zero with status := .ok, got := true, present := e.present, rdata := e.data }

/-- `FIFO.PUSH present` with the payload on `wdata` (42_fifo.md R122): never refused, the oldest entry is dropped when the
unit is full. -/
def execFifoPush (present : Bool) (s : State) : Answer :=
  if s.count.val = 20 then .next ((s.replaceOldest (s.pushedEntry present)).respond (pushResponse true))
  else .next ((s.appendNewest (s.pushedEntry present)).respond (pushResponse false))

/-- `FIFO.POP` (42_fifo.md R126): never waits, raises `EMPTY` when nothing is stored. -/
def execFifoPop (s : State) : Answer :=
  if s.count.val = 0 then raise .empty s
  else .next (s.removeOldest.respond (popResponse (s.readSlot s.head)))

/-- `Q`, the stored entries, oldest first (10_state.md R16). -/
def State.contents (s : State) : List Entry :=
  (List.range s.count.val).map fun i => s.readSlot (slotIndex s.head i)

end Sys2Proof.Machine
end

