-- ==== Sys2Proof/Machine/Dispatch.lean ====
section
/-! DEFINITION. Which meaning each operation has, one arm per constructor. -/

namespace Sys2Proof.Machine

def exec (i : Instr) (s : State) : Host.Outcome State Fault Refusal :=
  match i with
  | .crcCalc d0 d1 => Sys2Proof.Machine.execCrcCalc d0 d1 s
  | .crcChk d0 d1 c => Sys2Proof.Machine.execCrcChk d0 d1 c s
  | .f32Dec b0 b1 b2 b3 => Sys2Proof.Machine.execF32Dec b0 b1 b2 b3 s
  | .fifoPush present => Sys2Proof.Machine.execFifoPush present s
  | .fifoPop => Sys2Proof.Machine.execFifoPop s

end Sys2Proof.Machine
end

