-- ==== Sys2Proof/Machine/Flags.lean ====
section
/-! DEFINITION. The block has no flag register (10_state.md R12). What it shows beside the response are the three status
outputs, functions of `count` (R18); and the numeric codes of the two named response fields (60_exceptions.md R141,
41_f32_decode.md R103). -/

namespace Sys2Proof.Machine

/-- `fifo_count`, 5 bits (10_state.md R18). -/
def State.fifoCount (s : State) : BitVec 5 := BitVec.ofNat 5 s.count.val

/-- `fifo_empty` (10_state.md R18). -/
def State.fifoEmpty (s : State) : Bool := decide (s.count.val = 0)

/-- `fifo_full` (10_state.md R18). -/
def State.fifoFull (s : State) : Bool := decide (s.count.val = 20)

/-- The code of `rsp_status` (60_exceptions.md R141). -/
def Status.code : Status → BitVec 3
  | .ok => 0
  | .crcMismatch => 1
  | .nonfinite => 2
  | .empty => 3
  | .illegal => 4

/-- The code of `rsp_class` (41_f32_decode.md R103). -/
def FloatClass.code : FloatClass → BitVec 3
  | .zero => 0
  | .subnormal => 1
  | .normal => 2
  | .infinity => 3
  | .nan => 4

end Sys2Proof.Machine
end

