-- ==== Sys2Proof/Machine/Step.lean ====
section
/-! DEFINITION. One step of the machine: one turn of the command stream (20_memory.md R37, R38). A command is decoded and
executed atomically; a word that is no operation answers `ILLEGAL` (30_encoding.md R57, R58, R62); `rst` between commands
is a step of its own (70_reset_and_hazards.md R161). -/

namespace Sys2Proof.Machine

/-- One command, executed on a state whose `wdata` is the command's: its operation, or `ILLEGAL` where the word is none
(30_encoding.md R62). -/
def execCommand (r : Request) (s : State) : Answer :=
  match decode r.cmd with
  | .ok i => exec i s
  | .error _ => execIllegal s

/-- One step. -/
def step (s : State) : Host.Outcome State Fault Refusal :=
  match s.nextEvent with
  | .idle => .next s.idle
  | .rst => .next s.takeTurn.resetBlock
  | .command r => execCommand r (s.accept r)

/-- `s` with the opcode table's word of `nbits` bits as the very next command (log entries 7 and 15). -/
def State.withFetchWord (s : State) (nbits w : Nat) : State :=
  s.placeCommand (BitVec.ofNat 36 (w % 2 ^ nbits))

end Sys2Proof.Machine
end

