-- ==== Sys2Proof/Machine/CrcRef.lean ====
section
/-! DEFINITION. The other formulations of the checksum that the spec gives, for claims to compare with (40_crc8.md R83,
R89), and the number of set bits a claim about corrupted words counts (R88). No meaning uses them. -/

namespace Sys2Proof.Machine

/-- Row `0x0_` of the table of 40_crc8.md R89. -/
def crcTableRow0 : List Byte :=
  [0x00, 0x31, 0x62, 0x53, 0xC4, 0xF5, 0xA6, 0x97, 0xB9, 0x88, 0xDB, 0xEA, 0x7D, 0x4C, 0x1F, 0x2E]

/-- Row `0x1_` of the table of 40_crc8.md R89. -/
def crcTableRow1 : List Byte :=
  [0x43, 0x72, 0x21, 0x10, 0x87, 0xB6, 0xE5, 0xD4, 0xFA, 0xCB, 0x98, 0xA9, 0x3E, 0x0F, 0x5C, 0x6D]

/-- Row `0x2_` of the table of 40_crc8.md R89. -/
def crcTableRow2 : List Byte :=
  [0x86, 0xB7, 0xE4, 0xD5, 0x42, 0x73, 0x20, 0x11, 0x3F, 0x0E, 0x5D, 0x6C, 0xFB, 0xCA, 0x99, 0xA8]

/-- Row `0x3_` of the table of 40_crc8.md R89. -/
def crcTableRow3 : List Byte :=
  [0xC5, 0xF4, 0xA7, 0x96, 0x01, 0x30, 0x63, 0x52, 0x7C, 0x4D, 0x1E, 0x2F, 0xB8, 0x89, 0xDA, 0xEB]

/-- Row `0x4_` of the table of 40_crc8.md R89. -/
def crcTableRow4 : List Byte :=
  [0x3D, 0x0C, 0x5F, 0x6E, 0xF9, 0xC8, 0x9B, 0xAA, 0x84, 0xB5, 0xE6, 0xD7, 0x40, 0x71, 0x22, 0x13]

/-- Row `0x5_` of the table of 40_crc8.md R89. -/
def crcTableRow5 : List Byte :=
  [0x7E, 0x4F, 0x1C, 0x2D, 0xBA, 0x8B, 0xD8, 0xE9, 0xC7, 0xF6, 0xA5, 0x94, 0x03, 0x32, 0x61, 0x50]

/-- Row `0x6_` of the table of 40_crc8.md R89. -/
def crcTableRow6 : List Byte :=
  [0xBB, 0x8A, 0xD9, 0xE8, 0x7F, 0x4E, 0x1D, 0x2C, 0x02, 0x33, 0x60, 0x51, 0xC6, 0xF7, 0xA4, 0x95]

/-- Row `0x7_` of the table of 40_crc8.md R89. -/
def crcTableRow7 : List Byte :=
  [0xF8, 0xC9, 0x9A, 0xAB, 0x3C, 0x0D, 0x5E, 0x6F, 0x41, 0x70, 0x23, 0x12, 0x85, 0xB4, 0xE7, 0xD6]

/-- Row `0x8_` of the table of 40_crc8.md R89. -/
def crcTableRow8 : List Byte :=
  [0x7A, 0x4B, 0x18, 0x29, 0xBE, 0x8F, 0xDC, 0xED, 0xC3, 0xF2, 0xA1, 0x90, 0x07, 0x36, 0x65, 0x54]

/-- Row `0x9_` of the table of 40_crc8.md R89. -/
def crcTableRow9 : List Byte :=
  [0x39, 0x08, 0x5B, 0x6A, 0xFD, 0xCC, 0x9F, 0xAE, 0x80, 0xB1, 0xE2, 0xD3, 0x44, 0x75, 0x26, 0x17]

/-- Row `0xA_` of the table of 40_crc8.md R89. -/
def crcTableRowA : List Byte :=
  [0xFC, 0xCD, 0x9E, 0xAF, 0x38, 0x09, 0x5A, 0x6B, 0x45, 0x74, 0x27, 0x16, 0x81, 0xB0, 0xE3, 0xD2]

/-- Row `0xB_` of the table of 40_crc8.md R89. -/
def crcTableRowB : List Byte :=
  [0xBF, 0x8E, 0xDD, 0xEC, 0x7B, 0x4A, 0x19, 0x28, 0x06, 0x37, 0x64, 0x55, 0xC2, 0xF3, 0xA0, 0x91]

/-- Row `0xC_` of the table of 40_crc8.md R89. -/
def crcTableRowC : List Byte :=
  [0x47, 0x76, 0x25, 0x14, 0x83, 0xB2, 0xE1, 0xD0, 0xFE, 0xCF, 0x9C, 0xAD, 0x3A, 0x0B, 0x58, 0x69]

/-- Row `0xD_` of the table of 40_crc8.md R89. -/
def crcTableRowD : List Byte :=
  [0x04, 0x35, 0x66, 0x57, 0xC0, 0xF1, 0xA2, 0x93, 0xBD, 0x8C, 0xDF, 0xEE, 0x79, 0x48, 0x1B, 0x2A]

/-- Row `0xE_` of the table of 40_crc8.md R89. -/
def crcTableRowE : List Byte :=
  [0xC1, 0xF0, 0xA3, 0x92, 0x05, 0x34, 0x67, 0x56, 0x78, 0x49, 0x1A, 0x2B, 0xBC, 0x8D, 0xDE, 0xEF]

/-- Row `0xF_` of the table of 40_crc8.md R89. -/
def crcTableRowF : List Byte :=
  [0x82, 0xB3, 0xE0, 0xD1, 0x46, 0x77, 0x24, 0x15, 0x3B, 0x0A, 0x59, 0x68, 0xFF, 0xCE, 0x9D, 0xAC]

/-- The byte table `T` (40_crc8.md R89). -/
def crcTable : List Byte :=
  crcTableRow0 ++ crcTableRow1 ++ crcTableRow2 ++ crcTableRow3 ++
  crcTableRow4 ++ crcTableRow5 ++ crcTableRow6 ++ crcTableRow7 ++
  crcTableRow8 ++ crcTableRow9 ++ crcTableRowA ++ crcTableRowB ++
  crcTableRowC ++ crcTableRowD ++ crcTableRowE ++ crcTableRowF

/-- `T[x]` (40_crc8.md R89). -/
def crcLookup (x : Byte) : Byte := crcTable.getD x.toNat 0

/-- The table form: `T[ T[0xFF XOR d0] XOR d1 ]` (40_crc8.md R83 (c)). -/
def crc8ByTable (d0 d1 : Byte) : Byte := crcLookup (crcLookup (0xFF ^^^ d0) ^^^ d1)

/-- One message bit of the bit-serial form (40_crc8.md R83 (b)). -/
def crcSerialBit (crc : Byte) (m : Bool) : Byte :=
  let t := xor (crc.getLsbD 7) m
  if t then (crc <<< 1) ^^^ 0x31 else crc <<< 1

/-- The bits of a byte, most significant first. -/
def msbFirst (b : Byte) : List Bool := [7, 6, 5, 4, 3, 2, 1, 0].map b.getLsbD

/-- The bit-serial form over the sixteen message bits (40_crc8.md R83 (b)). -/
def crc8BitSerial (d0 d1 : Byte) : Byte := (msbFirst d0 ++ msbFirst d1).foldl crcSerialBit 0xFF

/-- The remainder of the division of `v`, a polynomial over GF(2) of degree below `n + 8`, by one of degree 8: long
division from the highest place down. -/
def polyMod (g : Nat) : Nat → Nat → Nat
  | 0, v => v
  | n + 1, v => polyMod g n (if v.testBit (n + 8) then v ^^^ (g <<< n) else v)

/-- The polynomial form: `pmod((M << 8) XOR (0xFF << 16), G)` with `M = (d0 << 8) OR d1` and `G = 0x131` (40_crc8.md R83
(a)). -/
def crc8Polynomial (d0 d1 : Byte) : Nat :=
  polyMod 0x131 16 ((((d0.toNat <<< 8) ||| d1.toNat) <<< 8) ^^^ (0xFF <<< 16))

/-- How many bits of a byte are set. -/
def bitCount (b : Byte) : Nat := ((msbFirst b).filter id).length

end Sys2Proof.Machine
end

