-- ==== Sys2Proof/Machine/F32Ref.lean ====
section
/-! DEFINITION. The value of a float word as an exact rational number (41_f32_decode.md R102) and the rounding the spec
describes on rationals (R107), for claims to compare the integer algorithm with. No meaning uses them. -/

namespace Sys2Proof.Machine

/-- The word is finite: its exponent field is not the maximal one (41_f32_decode.md R102). -/
def f32Finite (w : Word32) : Bool := decide ((f32Exp w).toNat ≠ 255)

/-- `sig` and `x` of 41_f32_decode.md R102: the magnitude is `sig × 2^(x - 150)`. -/
def f32Magnitude (w : Word32) : ℚ :=
  let e := (f32Exp w).toNat
  let f := (f32Frac w).toNat
  if e = 0 then (f : ℚ) * (2 : ℚ) ^ ((1 : ℤ) - 150) else ((2 ^ 23 + f : ℕ) : ℚ) * (2 : ℚ) ^ ((e : ℤ) - 150)

/-- `V(s, e, f)`, the number a finite word denotes (41_f32_decode.md R102). -/
def f32Value (w : Word32) : ℚ := if f32Sign w then -(f32Magnitude w) else f32Magnitude w

/-- `rhe(r)`: the integer nearest to `r`, the even one half-way between two (41_f32_decode.md R107). -/
def roundHalfEven (r : ℚ) : ℤ :=
  let n := ⌊r⌋
  if r - n < 1 / 2 then n
  else if 1 / 2 < r - n then n + 1
  else if n % 2 = 0 then n else n + 1

end Sys2Proof.Machine
end

