-- ==== Sys2Proof/Machine/Wire.lean ====
section
/-! DEFINITION. The data formats the host cuts a sensor's frame into (30_encoding.md R67, R68): the wire word of three
bytes and the float field of two words. The block sees only the bytes of a command; these are for claims about what the
commands of a field answer. No meaning uses them. -/

namespace Sys2Proof.Machine

/-- A wire word: two data bytes in wire order and their checksum byte (30_encoding.md R67). -/
structure WireWord where
  d0 : Byte
  d1 : Byte
  c : Byte
  deriving DecidableEq, Repr

/-- `valid(d0, d1, c)` (40_crc8.md R86): the checksum byte is the checksum, and nothing else is asked. -/
def WireWord.valid (w : WireWord) : Bool := crc8 w.d0 w.d1 == w.c

/-- The word a sender puts on the wire for two data bytes (30_encoding.md R67). -/
def WireWord.ofData (d0 d1 : Byte) : WireWord := ⟨d0, d1, crc8 d0 d1⟩

/-- A frame cut into words at the byte offsets 0, 3, 6, … (30_encoding.md R67); bytes that fill no word are left. -/
def cutWords : List Byte → List WireWord
  | d0 :: d1 :: c :: rest => ⟨d0, d1, c⟩ :: cutWords rest
  | _ => []

/-- A float field: two words (30_encoding.md R68). -/
structure Field where
  first : WireWord
  second : WireWord
  deriving DecidableEq, Repr

/-- The field of six bytes a float word is sent as: `b0 b1`, their checksum, `b2 b3`, their checksum (30_encoding.md
R68). -/
def Field.ofWord (w : Word32) : Field where
  first := WireWord.ofData (w.extractLsb' 24 8) (w.extractLsb' 16 8)
  second := WireWord.ofData (w.extractLsb' 8 8) (w.extractLsb' 0 8)

/-- The `CRC.CHK` command of a word (70_reset_and_hazards.md R166 (a)). -/
def WireWord.check (w : WireWord) : Instr := .crcChk w.d0 w.d1 w.c

/-- The `F32.DEC` command of a field: its four data bytes, most significant first (30_encoding.md R68). -/
def Field.decodeCommand (f : Field) : Instr := .f32Dec f.first.d0 f.first.d1 f.second.d0 f.second.d1

end Sys2Proof.Machine
end

