-- ==== Sys2Proof/Machine/FifoRef.lean ====
section
/-! DEFINITION. The FIFO unit on its abstract content `Q`, a list of at most 20 entries, oldest first (10_state.md R16,
42_fifo.md R122, R126, R129), and what the consumer's software makes of a pop (R127). No meaning uses them. -/

namespace Sys2Proof.Machine

/-- A push on the abstract content (42_fifo.md R122): what is stored afterwards. -/
def absPush (e : Entry) (q : List Entry) : List Entry := if q.length = 20 then q.tail ++ [e] else q ++ [e]

/-- The response of a push on the abstract content. -/
def absPushResponse (q : List Entry) : Response := { Response.zero with evicted := decide (q.length = 20) }

/-- The response of a pop on the abstract content (42_fifo.md R126); what is stored afterwards is `q.tail`. -/
def absPopResponse (q : List Entry) : Response :=
  match q with
  | [] => Response.only .empty
  | e :: _ => { Response.zero with got := true, present := e.present, rdata := e.data }

/-- The result of `get_measurement` that the response of a pop stands for: a record, or empty (42_fifo.md R127). -/
def getMeasurement (r : Response) : Option Payload :=
  if r.status = .ok ∧ r.got = true ∧ r.present = true then some r.rdata else none

/-- What a push destroys: the oldest entry of a full unit (42_fifo.md R121). -/
def absEvicted (q : List Entry) : List Entry := if q.length = 20 then q.take 1 else []

end Sys2Proof.Machine
end

