-- ==== Sys2Proof/Safety.lean ====
section
/-! DEFINITION. What claims are stated in: what a response may hold (60_exceptions.md R141), what ties the response port to
the FIFO, when two states cannot be told apart (10_state.md R20), the effect of a list of operations, and the ownership
convention a claim may take as a premise (60_exceptions.md R150). -/

namespace Sys2Proof.Machine

/-- The fields of the CRC unit are zero (30_encoding.md R61). -/
def Response.noCrc (r : Response) : Prop := r.crc = 0 ∧ r.ok = false

/-- The fields of the float-decode unit are zero (30_encoding.md R61). -/
def Response.noFloat (r : Response) : Prop :=
  r.word = 0 ∧ r.sign = false ∧ r.exp = 0 ∧ r.frac = 0 ∧ r.cls = .zero ∧ r.milli = 0

/-- The fields of the FIFO unit are zero (30_encoding.md R61). -/
def Response.noFifo (r : Response) : Prop :=
  r.evicted = false ∧ r.got = false ∧ r.present = false ∧ r.rdata = 0

/-- What a response can hold (60_exceptions.md R141, 30_encoding.md R59, R61): the fields of one unit only, and for each
status the fields its row of the table lists. The fields of the float unit agree with its word, and `milli` never is
`-2^138` (43_arithmetic_and_absent_families.md R171). -/
structure Response.Wf (r : Response) : Prop where
  oneUnit : (r.noFloat ∧ r.noFifo) ∨ (r.noCrc ∧ r.noFifo) ∨ (r.noCrc ∧ r.noFloat)
  illegal : r.status = .illegal → r.noCrc ∧ r.noFloat ∧ r.noFifo
  empty : r.status = .empty → r.noCrc ∧ r.noFloat ∧ r.noFifo
  crcMismatch : r.status = .crcMismatch → r.ok = false ∧ r.noFloat ∧ r.noFifo
  nonfinite : r.status = .nonfinite ↔ r.exp.toNat = 255
  nonfiniteFields : r.status = .nonfinite →
    (r.cls = .infinity ∨ r.cls = .nan) ∧ r.milli = 0 ∧ r.noCrc ∧ r.noFifo
  okIsOk : r.ok = true → r.status = .ok
  gotAll : r.got = false → r.present = false ∧ r.rdata = 0
  floatFields : r.sign = f32Sign r.word ∧ r.exp = f32Exp r.word ∧ r.frac = f32Frac r.word ∧
    r.cls = f32Class r.exp r.frac
  milliRange : -(2 ^ 138 : Int) < r.milli.toInt

/-- What the response port says about the unit that has just answered: a response is well-formed, an eviction leaves the
unit full, a removal leaves room, and `EMPTY` is answered by an empty unit (42_fifo.md R122, R126). -/
def State.PortInv (s : State) : Prop :=
  ∀ r, s.rsp = some r → r.Wf ∧ (r.evicted = true → s.count.val = 20) ∧ (r.got = true → s.count.val < 20) ∧
    (r.status = .empty → s.count.val = 0)

/-- Two states that no sequence of commands can tell apart: the same stored entries and the same commands to come,
whatever `head`, the stale slots and the last `wdata` are (10_state.md R20). -/
def State.SameContents (s t : State) : Prop :=
  s.contents = t.contents ∧ s.producer = t.producer ∧ s.consumer = t.consumer ∧ s.sched = t.sched

/-- The operation reads and writes no FIFO state (20_memory.md R34, R44). -/
def isPure : Instr → Bool
  | .crcCalc _ _ => true
  | .crcChk _ _ _ => true
  | .f32Dec _ _ _ _ => true
  | .fifoPush _ => false
  | .fifoPop => false

/-- Commands one after another, each with its value on `wdata`: the responses in order and the state left (20_memory.md
R37, R45). -/
def runCommands : List Request → State → Option (List Response × State)
  | [], s => some ([], s)
  | c :: rest, s =>
    match execCommand c { s with wdata := c.wdata } with
    | .next t =>
      match t.rsp, runCommands rest t with
      | some r, some (rs, u) => some (r :: rs, u)
      | _, _ => none
    | .fault _ => none
    | .refused _ => none

/-- The command that pushes an entry (30_encoding.md R65). -/
def pushCommand (e : Entry) : Request := ⟨encode (.fifoPush e.present), e.data⟩

/-- The command that pops, whatever stands on `wdata` (30_encoding.md R65). -/
def popCommand (d : Payload) : Request := ⟨encode .fifoPop, d⟩

/-- The entry a command asks to store: that of a legal push, and none of any other command. -/
def askedEntry (c : Request) : List Entry :=
  match decode c.cmd with
  | .ok (.fifoPush p) => [⟨p, c.wdata⟩]
  | _ => []

/-- The entries a command sequence asks to store, in order. -/
def askedEntries (cs : List Request) : List Entry := cs.flatMap askedEntry

/-- What a command leaves stored and what it answers, said on the abstract content (42_fifo.md R122, R126, R129). -/
def absExec (i : Instr) (d : Payload) (q : List Entry) : List Entry × Response :=
  match i with
  | .crcCalc d0 d1 => (q, crcCalcResponse d0 d1)
  | .crcChk d0 d1 c => (q, crcChkResponse d0 d1 c)
  | .f32Dec b0 b1 b2 b3 => (q, f32Response (word32 b0 b1 b2 b3))
  | .fifoPush p => (absPush ⟨p, d⟩ q, absPushResponse q)
  | .fifoPop => (q.tail, absPopResponse q)

/-- `l` is a merge of `p` and `c` that keeps the order of each (20_memory.md R38). -/
inductive Interleaves : List Request → List Request → List Request → Prop where
  | nil : Interleaves [] [] []
  | left {p c l : List Request} (r : Request) : Interleaves p c l → Interleaves (r :: p) c (r :: l)
  | right {p c l : List Request} (r : Request) : Interleaves p c l → Interleaves p (r :: c) (r :: l)

/-- The one stream of commands a schedule makes of the two agents' sequences (20_memory.md R37, R38). -/
def mergedStream : List Turn → List Request → List Request → List Request
  | [], _, _ => []
  | .rst :: ts, p, c => mergedStream ts p c
  | .producer :: ts, r :: p, c => r :: mergedStream ts p c
  | .producer :: ts, [], c => mergedStream ts [] c
  | .consumer :: ts, p, r :: c => r :: mergedStream ts p c
  | .consumer :: ts, p, [] => mergedStream ts p []

/-- The entries that responses of pops returned, in order (42_fifo.md R132). -/
def returnedEntries (rs : List Response) : List Entry :=
  (rs.filter fun r => r.got).map fun r => ⟨r.present, r.rdata⟩

/-- How many responses report an eviction (42_fifo.md R132). -/
def evictionCount (rs : List Response) : Nat := (rs.filter fun r => r.evicted).length

/-- The ownership convention (60_exceptions.md R150): the producer issues no pop and the consumer nothing but pops. The
block does not enforce it, so a claim that needs it takes it as a premise. -/
def State.Owned (s : State) : Prop :=
  (∀ r ∈ s.producer, decode r.cmd ≠ .ok .fifoPop) ∧ (∀ r ∈ s.consumer, decode r.cmd = .ok .fifoPop)

end Sys2Proof.Machine
end

