-- ==== Sys2Proof/Certificates/Slice0/Obligations.lean ====
section
/-! DEFINITION. The statements for the provers. Each docstring names the rule or the part of the spec the statement comes
from. -/

open Sys2Proof Sys2Proof.Machine

/-! ### Command words -/

/-- The command words written out in 30_encoding.md R65 decode to the operations they are written for. -/
def Obligations.WrittenOutWordsDecode : Prop :=
  decode 0x0000BEEF1 = .ok (.crcCalc 0xBE 0xEF) ∧
  decode 0x00BEEF922 = .ok (.crcChk 0xBE 0xEF 0x92) ∧
  decode 0x41C400003 = .ok (.f32Dec 0x41 0xC4 0x00 0x00) ∧
  decode 0x000000014 = .ok (.fifoPush true) ∧
  decode 0x000000004 = .ok (.fifoPush false) ∧
  decode 0x000000005 = .ok .fifoPop

/-- 30_encoding.md section 3: a word selects a row of the opcode map exactly when it decodes to that row's operation; so no
word selects two rows, and the legal words are those that select one. -/
def Obligations.OpcodeMapSelectsWhatDecodes : Prop :=
  (∀ w : CmdWord, ∀ row ∈ opcodeTable, (row.selects w = true ↔ ∃ i, decode w = .ok i ∧ rowOf i = row)) ∧
  (∀ w : CmdWord, ∀ row₁ ∈ opcodeTable, ∀ row₂ ∈ opcodeTable,
    row₁.selects w = true → row₂.selects w = true → row₁ = row₂) ∧
  (∀ w : CmdWord, legalWord w = true ↔ ∃ row ∈ opcodeTable, row.selects w = true)

/-- 30_encoding.md sections 1 and 3: decoding what was encoded gives the operation back, every operand at every value. -/
def Obligations.DecodeOfEncode : Prop := ∀ i : Instr, decode (encode i) = .ok i

/-- 30_encoding.md sections 1, 3 and 4: a word that decodes is the encoding of what it decodes to, so each operation with
its operands has one word. -/
def Obligations.EncodeOfDecode : Prop := ∀ (w : CmdWord) (i : Instr), decode w = .ok i → encode i = w

/-- 30_encoding.md section 6: each line of assembler text, the pseudo-instructions among them, stands for the encoding of
its operation, a push with its payload on `wdata`; an operand out of its range is refused. The spec gives `wdata` for the
lines of a push alone: that the others stand for 0 there is the model's choice, log entry 17. -/
def Obligations.AssemblerLinesEncode : Prop :=
  (∀ d0 d1 : Byte, assemble (.crcCalc d0.toNat d1.toNat) = some (encode (.crcCalc d0 d1), 0)) ∧
  (∀ d0 d1 c : Byte, assemble (.crcChk d0.toNat d1.toNat c.toNat) = some (encode (.crcChk d0 d1 c), 0)) ∧
  (∀ b0 b1 b2 b3 : Byte,
    assemble (.f32Dec b0.toNat b1.toNat b2.toNat b3.toNat) = some (encode (.f32Dec b0 b1 b2 b3), 0)) ∧
  (∀ (p : Bool) (d : Payload), assemble (.fifoPush p.toNat d.toNat) = some (encode (.fifoPush p), d)) ∧
  assemble .fifoPop = some (encode .fifoPop, 0) ∧
  (∀ w : Word32, assemble (.f32DecW w.toNat) = some (encode (.f32Dec (w.extractLsb' 24 8) (w.extractLsb' 16 8)
    (w.extractLsb' 8 8) (w.extractLsb' 0 8)), 0)) ∧
  (∀ d : Payload, assemble (.fifoPushR d.toNat) = some (encode (.fifoPush true), d)) ∧
  assemble .fifoPushE = some (encode (.fifoPush false), 0) ∧
  (∀ d0 d1 : Nat, 255 < d0 ∨ 255 < d1 → assemble (.crcCalc d0 d1) = none) ∧
  (∀ d0 d1 c : Nat, 255 < d0 ∨ 255 < d1 ∨ 255 < c → assemble (.crcChk d0 d1 c) = none) ∧
  (∀ b0 b1 b2 b3 : Nat, 255 < b0 ∨ 255 < b1 ∨ 255 < b2 ∨ 255 < b3 → assemble (.f32Dec b0 b1 b2 b3) = none) ∧
  (∀ p d : Nat, 1 < p ∨ 2 ^ Config.recW ≤ d → assemble (.fifoPush p d) = none) ∧
  (∀ w : Nat, 2 ^ 32 ≤ w → assemble (.f32DecW w) = none) ∧
  (∀ d : Nat, 2 ^ Config.recW ≤ d → assemble (.fifoPushR d) = none)

/-- 30_encoding.md R57: a reserved `op` (0, 6 to 15) is illegal whatever `arg`; the response carries `ILLEGAL`, code 4,
every other field zero, and no state changes; the all-zero word is one of these; no command word wedges the block. -/
def Obligations.ReservedOpcodeIsIllegal : Prop :=
  (∀ (s : State) (c : Request), s.nextEvent = .command c → (opOf c.cmd).toNat = 0 ∨ 6 ≤ (opOf c.cmd).toNat →
    ∃ t, step s = .next t ∧
      t.rsp = some
        { status := .illegal, crc := 0, ok := false, word := 0, sign := false, exp := 0, frac := 0,
          cls := .zero, milli := 0, evicted := false, got := false, present := false, rdata := 0 } ∧
      t.slot = s.slot ∧ t.head = s.head ∧ t.count = s.count) ∧
  Status.illegal.code = 4 ∧ FloatClass.zero.code = 0 ∧ opOf 0x000000000 = 0 ∧
  (∀ (s : State) (c : Request), s.nextEvent = .command c → ∃ t, step s = .next t ∧ t.rsp.isSome = true)

/-- 30_encoding.md R58: a set reserved bit under `op` 1, 2, 4 or 5 is illegal with the same effect, before anything else
the operation would do; `F32.DEC` has no reserved bits. -/
def Obligations.ReservedBitIsIllegal : Prop :=
  (∀ (s : State) (c : Request), s.nextEvent = .command c →
    (opOf c.cmd = 1 ∧ c.cmd.extractLsb' 20 16 ≠ 0) ∨ (opOf c.cmd = 2 ∧ c.cmd.extractLsb' 28 8 ≠ 0) ∨
      (opOf c.cmd = 4 ∧ c.cmd.extractLsb' 5 31 ≠ 0) ∨ (opOf c.cmd = 5 ∧ c.cmd.extractLsb' 4 32 ≠ 0) →
    ∃ t, step s = .next t ∧
      t.rsp = some
        { status := .illegal, crc := 0, ok := false, word := 0, sign := false, exp := 0, frac := 0,
          cls := .zero, milli := 0, evicted := false, got := false, present := false, rdata := 0 } ∧
      t.slot = s.slot ∧ t.head = s.head ∧ t.count = s.count) ∧
  (∀ (s : State) (c : Request), s.nextEvent = .command c → opOf c.cmd = 3 →
    ∃ t r, step s = .next t ∧ t.rsp = some r ∧ r.status ≠ .illegal ∧ r.word = c.cmd.extractLsb' 4 32)

/-! ### Steps, reset, status outputs -/

/-- 20_memory.md section 5: when the command accepted decodes, the step is the operation on the state in which the command
has left its agent's sequence, the turn is over and `wdata` is the command's. -/
def Obligations.StepRunsDecodedOperation : Prop :=
  ∀ (s : State) (c : Request) (ts : List Turn) (rest : List Request) (i : Instr), decode c.cmd = .ok i →
    (s.sched = .producer :: ts → s.producer = c :: rest →
      step s = exec i { s with sched := ts, producer := rest, wdata := c.wdata }) ∧
    (s.sched = .consumer :: ts → s.consumer = c :: rest →
      step s = exec i { s with sched := ts, consumer := rest, wdata := c.wdata })

/-- 60_exceptions.md section 5 (between commands the block is idle and holds its state). That such a step shows no response
and uses up its turn is the model's choice: log entry 6. -/
def Obligations.IdleStepHoldsTheBlock : Prop :=
  ∀ s : State,
    (s.sched = [] → step s = .next { s with rsp := none }) ∧
    (∀ ts, s.sched = .producer :: ts → s.producer = [] → step s = .next { s with sched := ts, rsp := none }) ∧
    (∀ ts, s.sched = .consumer :: ts → s.consumer = [] → step s = .next { s with sched := ts, rsp := none })

/-- 70_reset_and_hazards.md section 1: reset between commands empties the unit from every state. That the agents' commands
and turns stay is the model's choice: log entry 13. -/
def Obligations.ResetStepEmptiesTheUnit : Prop :=
  ∀ (s : State) (ts : List Turn), s.sched = .rst :: ts →
    ∃ t, step s = .next t ∧ t.count = 0 ∧ t.head = 0 ∧ t.contents = [] ∧ t.rsp = none ∧
      t.fifoCount = 0 ∧ t.fifoEmpty = true ∧ t.fifoFull = false ∧
      t.producer = s.producer ∧ t.consumer = s.consumer ∧ t.sched = ts

/-- 10_state.md section 4: the values the spec gives after reset. -/
def Obligations.ResetStateIsEmpty : Prop :=
  State.reset.count = 0 ∧ State.reset.head = 0 ∧ State.reset.contents = [] ∧ State.reset.rsp = none ∧
  State.reset.fifoCount = 0 ∧ State.reset.fifoEmpty = true ∧ State.reset.fifoFull = false

/-- 10_state.md R18: the status outputs are functions of `count`, and they change only as the result of a `FIFO.PUSH`, a
`FIFO.POP` or reset. -/
def Obligations.StatusOutputsFollowCount : Prop :=
  (∀ s : State, s.fifoCount.toNat = s.count.val ∧ (s.fifoEmpty = true ↔ s.count.val = 0) ∧
    (s.fifoFull = true ↔ s.count.val = 20)) ∧
  (∀ s t : State, step s = .next t →
    s.fifoCount ≠ t.fifoCount ∨ s.fifoEmpty ≠ t.fifoEmpty ∨ s.fifoFull ≠ t.fifoFull →
    s.nextEvent = .rst ∨ ∃ c, s.nextEvent = .command c ∧
      (decode c.cmd = .ok (.fifoPush true) ∨ decode c.cmd = .ok (.fifoPush false) ∨ decode c.cmd = .ok .fifoPop))

/-- 70_reset_and_hazards.md section 3 and 20_memory.md section 5: every step of every state answers a next state, with one
response exactly when a command was accepted. That no response stands on the port otherwise is the model's choice: log
entry 6. -/
def Obligations.EveryCommandAnswersOnce : Prop :=
  ∀ s : State, ∃ t, step s = .next t ∧ (t.rsp.isSome = true ↔ ∃ c, s.nextEvent = .command c)

/-- From every state in which the response port agrees with the unit, each step leads to one. A response is well-formed:
each status has the fields of its row (60_exceptions.md section 1), only one unit's fields are set (30_encoding.md section
5), the float fields and the class are those of the word (30_encoding.md section 5, 41_f32_decode.md section 2), and `milli`
is above `-2^138` (43_arithmetic_and_absent_families.md section 1). An eviction leaves 20 entries, a removal fewer, `EMPTY`
none (42_fifo.md section 2). That the response is a field of the state is the model's choice, log entry 3: in the spec it
belongs to its command alone (10_state.md section 3). -/
def Obligations.StepKeepsPortInv : Prop :=
  ∀ s t : State, s.PortInv → step s = .next t → t.PortInv

/-- After reset the response port agrees with the unit, since no response is pending (10_state.md section 4). That the port
is a field of the state is the model's choice, log entry 3. -/
def Obligations.ResetHasPortInv : Prop := State.reset.PortInv

/-- 30_encoding.md R61: in the response of every command the fields its operation's rule does not assign are zero. -/
def Obligations.UnassignedFieldsAreZero : Prop :=
  ∀ (c : Request) (s t : State) (r : Response), execCommand c s = .next t → t.rsp = some r →
    match decode c.cmd with
    | .ok (.crcCalc _ _) => r = { Response.zero with status := r.status, crc := r.crc }
    | .ok (.crcChk _ _ _) => r = { Response.zero with status := r.status, crc := r.crc, ok := r.ok }
    | .ok (.f32Dec _ _ _ _) =>
      r = { Response.zero with
        status := r.status, word := r.word, sign := r.sign, exp := r.exp, frac := r.frac, cls := r.cls,
        milli := r.milli }
    | .ok (.fifoPush _) => r = { Response.zero with status := r.status, evicted := r.evicted }
    | .ok .fifoPop =>
      r = { Response.zero with status := r.status, got := r.got, present := r.present, rdata := r.rdata }
    | .error _ => r = { Response.zero with status := r.status }

/-! ### CRC-8 unit -/

/-- 40_crc8.md section 2: `CRC.CALC` answers the checksum, here by the table form, and changes nothing else. -/
def Obligations.CrcCalcAnswersTheChecksum : Prop :=
  ∀ (d0 d1 : Byte) (s : State), exec (.crcCalc d0 d1) s =
    .next { s with rsp := some { Response.zero with status := .ok, crc := crc8ByTable d0 d1 } }

/-- 40_crc8.md section 2: `CRC.CHK` answers the checksum and whether it is the received one, in both outcomes, and changes
nothing else. -/
def Obligations.CrcChkComparesTheChecksum : Prop :=
  ∀ (d0 d1 c : Byte) (s : State),
    (crc8ByTable d0 d1 = c → exec (.crcChk d0 d1 c) s =
      .next { s with rsp := some { Response.zero with status := .ok, crc := c, ok := true } }) ∧
    (crc8ByTable d0 d1 ≠ c → exec (.crcChk d0 d1 c) s =
      .next { s with
        rsp := some { Response.zero with
          status := .crcMismatch, crc := crc8ByTable d0 d1, ok := false } })

/-- 40_crc8.md R86: a word is valid iff its third byte is the checksum of the first two, and nothing else is asked:
`CRC.CHK` answers so. -/
def Obligations.ValidityIsTheChecksum : Prop :=
  ∀ (w : WireWord) (s : State), ∃ t r, exec (.crcChk w.d0 w.d1 w.c) s = .next t ∧ t.rsp = some r ∧
    (r.ok = true ↔ crc8 w.d0 w.d1 = w.c) ∧ (r.status = .ok ↔ crc8 w.d0 w.d1 = w.c) ∧
    (w.valid = true ↔ crc8 w.d0 w.d1 = w.c)

/-- 40_crc8.md R83: the polynomial form, the bit-serial form and the table form compute the function of R81 for all inputs. -/
def Obligations.ChecksumFormsAgree : Prop :=
  ∀ d0 d1 : Byte, (crc8 d0 d1).toNat = crc8Polynomial d0 d1 ∧ crc8 d0 d1 = crc8BitSerial d0 d1 ∧
    crc8 d0 d1 = crc8ByTable d0 d1

/-- 40_crc8.md R89: `T[x]` is eight iterations from `x`, with no seed; the example of use. -/
def Obligations.ByteTableIsEightIterations : Prop :=
  crcTable.length = 256 ∧ (∀ x : Byte, crcLookup x = crcShifts 8 x) ∧
  (0xFF : Byte) ^^^ 0xBE = 0x41 ∧ crcLookup 0x41 = 0x0C ∧ (0x0C : Byte) ^^^ 0xEF = 0xE3 ∧ crcLookup 0xE3 = 0x92

/-- 40_crc8.md R87 (a) to (e). -/
def Obligations.ChecksumProperties : Prop :=
  (∀ (d0 d1 : Byte) (s s' t t' : State), exec (.crcCalc d0 d1) s = .next t → exec (.crcCalc d0 d1) s' = .next t' →
    t.rsp = t'.rsp ∧ ∃ r, t.rsp = some r ∧ r.crc = crc8 d0 d1) ∧
  (∀ d0 : Byte, Function.Bijective fun d1 : Byte => crc8 d0 d1) ∧
  (∀ d1 : Byte, Function.Bijective fun d0 : Byte => crc8 d0 d1) ∧
  (∀ d0 d1 : Byte, crcBytes [d0, d1, crc8 d0 d1] = 0) ∧
  (∀ a b c d : Byte, crc8 (a ^^^ c) (b ^^^ d) = crc8 a b ^^^ crc8 c d ^^^ crc8 0 0) ∧
  crc8 0x00 0x00 = 0x81 ∧ crc8 0xFF 0xFF = 0xAC ∧ crc8 0xFF 0x00 = 0x00 ∧ crc8 0xBE 0xEF = 0x92

/-- 40_crc8.md section 2 (counting): each pair of data bytes has exactly one valid checksum byte; every change confined to
the checksum byte of a valid word, and every change of one, two or three bits of it, is answered `CRC_MISMATCH`. -/
def Obligations.CorruptedWordsAreFound : Prop :=
  (∀ d0 d1 : Byte, ∃! c : Byte, (WireWord.mk d0 d1 c).valid = true) ∧
  (∀ (d0 d1 c e : Byte) (s : State), crc8 d0 d1 = c → e ≠ 0 →
    ∃ t r, exec (.crcChk d0 d1 (c ^^^ e)) s = .next t ∧ t.rsp = some r ∧ r.status = .crcMismatch) ∧
  (∀ (d0 d1 c e0 e1 ec : Byte) (s : State), crc8 d0 d1 = c →
    1 ≤ bitCount e0 + bitCount e1 + bitCount ec → bitCount e0 + bitCount e1 + bitCount ec ≤ 3 →
    ∃ t r, exec (.crcChk (d0 ^^^ e0) (d1 ^^^ e1) (c ^^^ ec)) s = .next t ∧ t.rsp = some r ∧
      r.status = .crcMismatch)

/-! ### Float-decode unit -/

/-- 41_f32_decode.md R101: the fields, as slices of the word and in terms of the bytes, for every input, non-finite ones
included; nothing but the response changes. -/
def Obligations.FloatFieldsOfTheBytes : Prop :=
  ∀ (b0 b1 b2 b3 : Byte) (s : State), ∃ r, exec (.f32Dec b0 b1 b2 b3) s = .next { s with rsp := some r } ∧
    r.word = b0 ++ b1 ++ b2 ++ b3 ∧
    r.sign = r.word.getLsbD 31 ∧ r.exp = r.word.extractLsb' 23 8 ∧ r.frac = r.word.extractLsb' 0 23 ∧
    r.sign = b0.getLsbD 7 ∧ r.exp = b0.extractLsb' 0 7 ++ b1.extractLsb' 7 1 ∧
    r.frac = b1.extractLsb' 0 7 ++ b2 ++ b3

/-- 41_f32_decode.md section 1: `F32.DEC` completes in every state with the response of the word its four bytes spell, first
byte most significant, and changes nothing else. The statements about `f32Response` below reach the operation through this
one. -/
def Obligations.DecodeAnswersForTheWordOfTheBytes : Prop :=
  ∀ (b0 b1 b2 b3 : Byte) (s : State),
    exec (.f32Dec b0 b1 b2 b3) s = .next { s with rsp := some (f32Response (b0 ++ b1 ++ b2 ++ b3)) }

/-- 41_f32_decode.md R103: the class of every word, with its code; the codes 5 to 7 are never produced. -/
def Obligations.FloatClassTable : Prop :=
  ∀ (b0 b1 b2 b3 : Byte) (s : State), ∃ t r, exec (.f32Dec b0 b1 b2 b3) s = .next t ∧ t.rsp = some r ∧
    (r.exp = 0 → r.frac = 0 → r.cls = .zero ∧ r.cls.code = 0) ∧
    (r.exp = 0 → r.frac ≠ 0 → r.cls = .subnormal ∧ r.cls.code = 1) ∧
    (1 ≤ r.exp.toNat → r.exp.toNat ≤ 254 → r.cls = .normal ∧ r.cls.code = 2) ∧
    (r.exp = 255 → r.frac = 0 → r.cls = .infinity ∧ r.cls.code = 3) ∧
    (r.exp = 255 → r.frac ≠ 0 → r.cls = .nan ∧ r.cls.code = 4) ∧
    r.cls.code.toNat ≤ 4

/-- 41_f32_decode.md section 3 (infinity and NaN): a word of maximal exponent answers `NONFINITE` with its fields and class
and `milli` zero; nothing but the response changes. -/
def Obligations.NonfiniteWordsAnswerNonfinite : Prop :=
  ∀ (b0 b1 b2 b3 : Byte) (s : State), (b0 ++ b1 ++ b2 ++ b3).extractLsb' 23 8 = 255#8 →
    exec (.f32Dec b0 b1 b2 b3) s = .next { s with rsp := some { Response.zero with
      status := .nonfinite, word := b0 ++ b1 ++ b2 ++ b3, sign := b0.getLsbD 7, exp := 255,
      frac := b1.extractLsb' 0 7 ++ b2 ++ b3,
      cls := if b1.extractLsb' 0 7 ++ b2 ++ b3 = 0#23 then .infinity else .nan, milli := 0 } }

/-- 41_f32_decode.md R107: `milli` of every finite word is the value times 1000, its magnitude rounded to the nearest
integer, the even one half-way between two, with the sign attached afterwards. -/
def Obligations.FiniteWordsRoundHalfEven : Prop :=
  (∀ (b0 b1 b2 b3 : Byte) (s : State), f32Finite (b0 ++ b1 ++ b2 ++ b3) = true →
    ∃ r, exec (.f32Dec b0 b1 b2 b3) s = .next { s with rsp := some r } ∧ r.status = .ok ∧
      r.milli.toInt = (if b0.getLsbD 7 then -1 else 1) *
        roundHalfEven (|f32Value (b0 ++ b1 ++ b2 ++ b3)| * 1000)) ∧
  (∀ x : ℚ, |(roundHalfEven x : ℚ) - x| ≤ 1 / 2 ∧
    (|(roundHalfEven x : ℚ) - x| = 1 / 2 → roundHalfEven x % 2 = 0))

/-- 41_f32_decode.md section 4 (relation to the source's return type): the value returned is within 0.0005 of the number
the word denotes. -/
def Obligations.RoundedWithinHalfAThousandth : Prop :=
  ∀ (b0 b1 b2 b3 : Byte) (s : State), f32Finite (b0 ++ b1 ++ b2 ++ b3) = true →
    ∃ t r, exec (.f32Dec b0 b1 b2 b3) s = .next t ∧ t.rsp = some r ∧
      |(r.milli.toInt : ℚ) / 1000 - f32Value (b0 ++ b1 ++ b2 ++ b3)| ≤ 1 / 2000

/-- 41_f32_decode.md R108: the largest magnitude is that of `0x7F7FFFFF`, every magnitude is below `2^138`, so the 139-bit
field holds `milli` itself: nothing saturates. -/
def Obligations.MilliFitsItsField : Prop :=
  (∀ w : Word32, f32Finite w = true →
    |milli (f32Sign w) (f32Exp w).toNat (f32Frac w).toNat| ≤ 340282346638528859811704183484516925440000 ∧
    |milli (f32Sign w) (f32Exp w).toNat (f32Frac w).toNat| < 2 ^ 138 ∧
    (f32Response w).milli.toInt = milli (f32Sign w) (f32Exp w).toNat (f32Frac w).toNat) ∧
  (f32Response 0x7F7FFFFF).milli.toInt = (2 ^ 24 - 1) * 1000 * 2 ^ 104 ∧
  ((2 : Int) ^ 24 - 1) * 1000 * 2 ^ 104 = 340282346638528859811704183484516925440000

/-- 41_f32_decode.md R111: `milli` is zero for every finite word of magnitude below 0.0005 and not zero above; 0.0005
itself does not occur; the boundary words; exponents up to 115 give zero. -/
def Obligations.SmallValuesRoundToZero : Prop :=
  (∀ w : Word32, f32Finite w = true →
    (|f32Value w| < 1 / 2000 → (f32Response w).milli.toInt = 0) ∧
    (1 / 2000 < |f32Value w| → 1 ≤ |(f32Response w).milli.toInt|) ∧ |f32Value w| ≠ 1 / 2000) ∧
  (∀ w : Word32, f32Finite w = true → f32Sign w = false →
    ((f32Response w).milli.toInt = 0 ↔ w.toNat ≤ 0x3A03126E)) ∧
  (f32Response 0x3A03126F).milli.toInt = 1 ∧
  (∀ w : Word32, (f32Exp w).toNat ≤ 115 → |f32Value w| < 2 ^ (-11 : ℤ) ∧ (f32Response w).milli.toInt = 0)

/-- 43_arithmetic_and_absent_families.md section 1: turning the sign bit of a finite word over negates `milli` and leaves
status, class, exponent and fraction. -/
def Obligations.MilliIsSignSymmetric : Prop :=
  ∀ w : Word32, f32Finite w = true →
    (f32Response (w ^^^ 0x80000000)).milli.toInt = -(f32Response w).milli.toInt ∧
    (f32Response (w ^^^ 0x80000000)).sign = !(f32Response w).sign ∧
    (f32Response (w ^^^ 0x80000000)).status = (f32Response w).status ∧
    (f32Response (w ^^^ 0x80000000)).cls = (f32Response w).cls ∧
    (f32Response (w ^^^ 0x80000000)).exp = (f32Response w).exp ∧
    (f32Response (w ^^^ 0x80000000)).frac = (f32Response w).frac

/-- 41_f32_decode.md R112: `rsp_sign` always reports the sign bit, and `milli` has no negative zero. -/
def Obligations.SignOfZeroResults : Prop :=
  (∀ w : Word32, (f32Response w).sign = w.getLsbD 31) ∧
  (f32Response 0x80000000).sign = true ∧ (f32Response 0x80000000).cls = .zero ∧
  (f32Response 0x80000000).milli = 0 ∧
  (f32Response 0xB9FFFFFF).sign = true ∧ (f32Response 0xB9FFFFFF).cls = .normal ∧
  (f32Response 0xB9FFFFFF).milli = 0

/-- 41_f32_decode.md section 3 (zero and subnormal): exponent field zero answers `OK`, `milli` zero and the class, and the
magnitude is below `2^-126`. -/
def Obligations.ZeroAndSubnormalAnswerZero : Prop :=
  ∀ w : Word32, f32Exp w = 0 →
    (f32Response w).status = .ok ∧ (f32Response w).milli = 0 ∧
    (f32Response w).cls = (if f32Frac w = 0 then .zero else .subnormal) ∧
    |f32Value w| = ((f32Frac w).toNat : ℚ) * 2 ^ (-149 : ℤ) ∧ |f32Value w| < 2 ^ (-126 : ℤ)

/-- 41_f32_decode.md section 4 (ties): the four examples and 24.5, from the bytes on. -/
def Obligations.TieExamples : Prop :=
  (f32Response (word32 0x3D 0x80 0x00 0x00)).milli.toInt = 62 ∧
  (f32Response (word32 0x3E 0x40 0x00 0x00)).milli.toInt = 188 ∧
  (f32Response (word32 0x3E 0xA0 0x00 0x00)).milli.toInt = 312 ∧
  (f32Response (word32 0xBD 0x80 0x00 0x00)).milli.toInt = -62 ∧
  (f32Response (word32 0x41 0xC4 0x00 0x00)).milli.toInt = 24500

/-! ### FIFO unit -/

/-- 42_fifo.md section 2 (push): a push completes in every state; the new entry is the newest, the oldest is dropped when
20 are stored and then reported; nothing else changes but the ring and the response. -/
def Obligations.PushAppendsTheEntry : Prop :=
  ∀ (present : Bool) (s : State), ∃ t, exec (.fifoPush present) s = .next t ∧
    t.contents = (if s.contents.length = 20 then s.contents.tail ++ [⟨present, s.wdata⟩]
      else s.contents ++ [⟨present, s.wdata⟩]) ∧
    t.rsp = some { Response.zero with status := .ok, evicted := decide (s.contents.length = 20) } ∧
    t.wdata = s.wdata ∧ t.producer = s.producer ∧ t.consumer = s.consumer ∧ t.sched = s.sched

/-- 42_fifo.md section 2 (pop): a pop completes in every state; it removes and returns the oldest entry, or answers `EMPTY`
and changes nothing but the response. -/
def Obligations.PopReturnsTheOldest : Prop :=
  ∀ s : State,
    (s.contents = [] → exec .fifoPop s = .next { s with rsp := some { Response.zero with status := .empty } }) ∧
    (∀ (e : Entry) (q : List Entry), s.contents = e :: q → ∃ t, exec .fifoPop s = .next t ∧ t.contents = q ∧
      t.rsp = some { Response.zero with status := .ok, got := true, present := e.present, rdata := e.data } ∧
      t.slot = s.slot ∧ t.wdata = s.wdata ∧ t.producer = s.producer ∧ t.consumer = s.consumer ∧
      t.sched = s.sched)

/-- 42_fifo.md section 2 (push, on the ring registers), in both cases. -/
def Obligations.PushOnTheRingRegisters : Prop :=
  ∀ (present : Bool) (s : State),
    (s.count.val = 20 → ∃ t, exec (.fifoPush present) s = .next t ∧
      t.readSlot s.head = ⟨present, s.wdata⟩ ∧ (∀ j, j ≠ s.head → t.readSlot j = s.readSlot j) ∧
      t.head.val = (s.head.val + 1) % 20 ∧ t.count = s.count) ∧
    (s.count.val < 20 → ∃ t, exec (.fifoPush present) s = .next t ∧
      (∀ j : Fin 20, t.readSlot j =
        if j.val = (s.head.val + s.count.val) % 20 then ⟨present, s.wdata⟩ else s.readSlot j) ∧
      t.head = s.head ∧ t.count.val = s.count.val + 1)

/-- 42_fifo.md section 2 (pop, on the ring registers): `head` moves on, `count` falls, and the popped slot keeps its bits. -/
def Obligations.PopOnTheRingRegisters : Prop :=
  ∀ s : State, 0 < s.count.val → ∃ t, exec .fifoPop s = .next t ∧ t.slot = s.slot ∧
    t.head.val = (s.head.val + 1) % 20 ∧ t.count.val = s.count.val - 1 ∧
    ∃ r, t.rsp = some r ∧ r.present = (s.readSlot s.head).present ∧ r.rdata = (s.readSlot s.head).data

/-- The frame of the three pure operations (20_memory.md section 3): the response is all that changes, and they complete in
every state. -/
def Obligations.PureOperationsFrame : Prop :=
  ∀ (i : Instr) (s : State), isPure i = true → ∃ r, exec i s = .next { s with rsp := some r }

/-- The frame of `FIFO.PUSH` and `FIFO.POP` (20_memory.md section 3): every slot but the one a push writes is unchanged, and
so is everything that is not the ring or the response. -/
def Obligations.FifoOperationsFrame : Prop :=
  (∀ (present : Bool) (s t : State), exec (.fifoPush present) s = .next t →
    (∀ j : Fin 20, j ≠ (if s.count.val = 20 then s.head else slotIndex s.head s.count.val) →
      t.readSlot j = s.readSlot j) ∧
    (s.count.val ≠ 20 → t.head = s.head) ∧ (s.count.val = 20 → t.count = s.count) ∧
    t.wdata = s.wdata ∧ t.producer = s.producer ∧ t.consumer = s.consumer ∧ t.sched = s.sched) ∧
  (∀ s t : State, exec .fifoPop s = .next t →
    (∀ j : Fin 20, t.readSlot j = s.readSlot j) ∧ (s.count.val = 0 → t.head = s.head ∧ t.count = s.count) ∧
    t.wdata = s.wdata ∧ t.producer = s.producer ∧ t.consumer = s.consumer ∧ t.sched = s.sched)

/-- 42_fifo.md R129: for every ring state and every command, the content left and the response are those of the abstract
form on the content before; and no sequence of commands tells two ring states of equal content apart. -/
def Obligations.RingRefinesItsContents : Prop :=
  (∀ (i : Instr) (s : State), ∃ t, exec i s = .next t ∧
    t.contents = (absExec i s.wdata s.contents).1 ∧ t.rsp = some (absExec i s.wdata s.contents).2) ∧
  (∀ (cs : List Request) (s s' : State), s.contents = s'.contents →
    ∃ rs t t', runCommands cs s = some (rs, t) ∧ runCommands cs s' = some (rs, t') ∧ t.contents = t'.contents)

/-- 10_state.md section 3: `head`, the stale slots and the last `wdata` are hidden: two states that differ in these alone
take steps with the same response to states that differ in these alone. -/
def Obligations.HiddenStateIsHidden : Prop :=
  ∀ s s' : State, s.SameContents s' →
    ∃ t t', step s = .next t ∧ step s' = .next t' ∧ t.SameContents t' ∧ t.rsp = t'.rsp

/-- 30_encoding.md section 2 (the `wdata` bus): what stands on `wdata` makes no difference to any operation but
`FIFO.PUSH`, nor to a word that is no operation. -/
def Obligations.WdataMattersToPushAlone : Prop :=
  ∀ (cmd : CmdWord) (d d' : Payload) (s : State), (∀ present, decode cmd ≠ .ok (.fifoPush present)) →
    ∃ t : State, execCommand ⟨cmd, d⟩ { s with wdata := d } = .next { t with wdata := d } ∧
      execCommand ⟨cmd, d'⟩ { s with wdata := d' } = .next { t with wdata := d' }

/-- 20_memory.md R44: taking a pure operation out of a command sequence, or putting it in at any place, changes no other
response and not the state left; and its own response is the same at every place. -/
def Obligations.PureOperationsCommute : Prop :=
  ∀ (c : Request) (i : Instr), decode c.cmd = .ok i → isPure i = true →
    ∃ r, ∀ (before after : List Request) (s : State), ∃ rs₁ rs₂ t t',
      runCommands (before ++ after) s = some (rs₁ ++ rs₂, t) ∧
      runCommands (before ++ c :: after) s = some (rs₁ ++ r :: rs₂, t') ∧
      rs₁.length = before.length ∧ t'.slot = t.slot ∧ t'.head = t.head ∧ t'.count = t.count

/-- 20_memory.md R39: the order of one push and one pop shows on an empty unit and on a full one, and in no other state. -/
def Obligations.PushPopOrderShowsAtTheEnds : Prop :=
  ∀ (e : Entry) (d : Payload) (s : State),
    (s.contents = [] →
      (∃ r₁ r₂ t, runCommands [pushCommand e, popCommand d] s = some ([r₁, r₂], t) ∧ r₂.status = .ok ∧
        r₂.got = true ∧ r₂.present = e.present ∧ r₂.rdata = e.data ∧ t.contents = []) ∧
      (∃ r₁ r₂ t, runCommands [popCommand d, pushCommand e] s = some ([r₁, r₂], t) ∧ r₁.status = .empty ∧
        t.contents = [e])) ∧
    (∀ a₁ a₂ q, s.contents = a₁ :: a₂ :: q → s.contents.length = 20 →
      (∃ r₁ r₂ t, runCommands [pushCommand e, popCommand d] s = some ([r₁, r₂], t) ∧ r₁.evicted = true ∧
        r₂.got = true ∧ r₂.present = a₂.present ∧ r₂.rdata = a₂.data ∧ t.contents = q ++ [e]) ∧
      (∃ r₁ r₂ t, runCommands [popCommand d, pushCommand e] s = some ([r₁, r₂], t) ∧ r₁.got = true ∧
        r₁.present = a₁.present ∧ r₁.rdata = a₁.data ∧ r₂.evicted = false ∧ t.contents = a₂ :: q ++ [e])) ∧
    (1 ≤ s.contents.length → s.contents.length ≤ 19 →
      ∃ r₁ r₂ t t', runCommands [pushCommand e, popCommand d] s = some ([r₁, r₂], t) ∧
        runCommands [popCommand d, pushCommand e] s = some ([r₂, r₁], t') ∧
        some (Entry.mk r₂.present r₂.rdata) = s.contents.head? ∧
        t.slot = t'.slot ∧ t.head = t'.head ∧ t.count = t'.count)

/-- 42_fifo.md R132: pushed entries are returned, evicted or still stored, each once and in order, and `count` is the
difference; from every state, and so from reset, for any command sequence. -/
def Obligations.EntriesAreConserved : Prop :=
  (∀ (cs : List Request) (s : State), ∃ rs t removed, runCommands cs s = some (rs, t) ∧
    s.contents ++ askedEntries cs = removed ++ t.contents ∧
    (returnedEntries rs).Sublist removed ∧
    removed.length = (returnedEntries rs).length + evictionCount rs) ∧
  (∀ (cs : List Request) (rs : List Response) (t : State), runCommands cs State.reset = some (rs, t) →
    t.count.val = (askedEntries cs).length - evictionCount rs - (returnedEntries rs).length ∧
    evictionCount rs + (returnedEntries rs).length ≤ (askedEntries cs).length)

/-- 42_fifo.md R131: after reset and any pushes the unit holds the last 20 of them in order, and a push reports an eviction
from the 21st on; 21 pushes leave the ring as said, and then 20 pops return all but the first in order and one more pop
answers `EMPTY`. -/
def Obligations.PushesKeepTheLastTwenty : Prop :=
  (∀ es : List Entry, ∃ rs t, runCommands (es.map pushCommand) State.reset = some (rs, t) ∧
    t.contents = es.drop (es.length - min es.length 20) ∧
    rs.map (fun r => r.evicted) = (List.range es.length).map (fun k => decide (20 ≤ k))) ∧
  (∀ (e₁ : Entry) (es : List Entry) (d : Payload), es.length = 20 →
    ∃ rs t rs' t' r u, runCommands ((e₁ :: es).map pushCommand) State.reset = some (rs, t) ∧
      t.contents = es ∧ t.head = 1 ∧ t.count.val = 20 ∧ some (t.readSlot 0) = es.getLast? ∧
      runCommands (List.replicate 20 (popCommand d)) t = some (rs', t') ∧
      rs' = es.map (fun e => { Response.zero with got := true, present := e.present, rdata := e.data }) ∧
      runCommands [popCommand d] t' = some ([r], u) ∧ r.status = .empty ∧ r.got = false)

/-- 42_fifo.md R130: index arithmetic is modulo 20, and the example with `head` 18 and three entries. -/
def Obligations.IndicesWrapAtTwenty : Prop :=
  nextIndex 19 = 0 ∧ (∀ (h : Fin 20) (n : Nat), h.val + n < 40 →
    (slotIndex h n).val = if h.val + n < 20 then h.val + n else h.val + n - 20) ∧
  (∀ (e : Entry) (d : Payload) (s : State), s.head = 18 → s.count = 3 →
    s.contents = [s.readSlot 18, s.readSlot 19, s.readSlot 0] ∧
    (∃ t, exec (.fifoPush e.present) { s with wdata := e.data } = .next t ∧ t.readSlot 1 = e ∧
      ∀ j, j ≠ 1 → t.readSlot j = s.readSlot j) ∧
    (∃ rs t, runCommands [popCommand d, popCommand d, popCommand d] s = some (rs, t) ∧ t.head = 1))

/-- 42_fifo.md R127: the three outcomes of a pop and the result of `get_measurement` each stands for; a placeholder's pop
consumes its slot. -/
def Obligations.ConsumerSeesRecordOrEmpty : Prop :=
  ∀ s : State,
    (∀ (d : Payload) (q : List Entry), s.contents = ⟨true, d⟩ :: q → ∃ t r, exec .fifoPop s = .next t ∧
      t.rsp = some r ∧ r.status = .ok ∧ r.got = true ∧ r.present = true ∧ getMeasurement r = some d ∧
      t.contents = q) ∧
    (∀ (d : Payload) (q : List Entry), s.contents = ⟨false, d⟩ :: q → ∃ t r, exec .fifoPop s = .next t ∧
      t.rsp = some r ∧ r.status = .ok ∧ r.got = true ∧ r.present = false ∧ getMeasurement r = none ∧
      t.contents = q) ∧
    (s.contents = [] → ∃ t r, exec .fifoPop s = .next t ∧
      t.rsp = some r ∧ r.status = .empty ∧ r.got = false ∧ r.present = false ∧ getMeasurement r = none ∧
      t.contents = [])

/-- 70_reset_and_hazards.md section 4 (f): only pops lower `count` and only pushes raise it (reset apart); a pop of a unit
that is not empty returns an entry and a push into one that is not full evicts none. -/
def Obligations.OnlyPushRaisesOnlyPopLowers : Prop :=
  (∀ s t : State, step s = .next t → s.nextEvent ≠ .rst →
    (s.count.val < t.count.val →
      ∃ c present, s.nextEvent = .command c ∧ decode c.cmd = .ok (.fifoPush present)) ∧
    (t.count.val < s.count.val → ∃ c, s.nextEvent = .command c ∧ decode c.cmd = .ok .fifoPop)) ∧
  (∀ (s : State) (c : Request), s.nextEvent = .command c → s.fifoEmpty = false → decode c.cmd = .ok .fifoPop →
    ∃ t r, step s = .next t ∧ t.rsp = some r ∧ r.got = true) ∧
  (∀ (s : State) (c : Request) (present : Bool), s.nextEvent = .command c → s.fifoFull = false →
    decode c.cmd = .ok (.fifoPush present) → ∃ t r, step s = .next t ∧ t.rsp = some r ∧ r.evicted = false)

/-- 70_reset_and_hazards.md section 4 (f), under the ownership convention: when the unit is not empty, the consumer's next
pop returns an entry however many turns of the producer come first; when it is not full, the producer's next push evicts
none however many turns of the consumer come first. -/
def Obligations.SingleAgentsCanTrustTheOutputs : Prop :=
  (∀ (k : Nat) (s : State) (ts : List Turn) (c : Request) (rest : List Request), s.Owned → s.fifoEmpty = false →
    s.sched = List.replicate k .producer ++ .consumer :: ts → s.consumer = c :: rest →
    ∃ t r, Sys2Proof.core.run (k + 1) s = .next t ∧ t.rsp = some r ∧ r.status = .ok ∧ r.got = true) ∧
  (∀ (k : Nat) (s : State) (ts : List Turn) (c : Request) (rest : List Request) (present : Bool), s.Owned →
    s.fifoFull = false → s.sched = List.replicate k .consumer ++ .producer :: ts → s.producer = c :: rest →
    decode c.cmd = .ok (.fifoPush present) →
    ∃ t r, Sys2Proof.core.run (k + 1) s = .next t ∧ t.rsp = some r ∧ r.status = .ok ∧ r.evicted = false)

/-! ### Agents -/

/-- 60_exceptions.md section 4: the block cannot tell the producer from the consumer: one command, whoever issues it, gets
the same response and leaves the same ring. -/
def Obligations.IssuerIsNotSeen : Prop :=
  ∀ (s s' : State) (c : Request) (ts ts' : List Turn) (p p' q q' : List Request),
    s.slot = s'.slot → s.head = s'.head → s.count = s'.count →
    s.sched = .producer :: ts → s.producer = c :: p → s.consumer = q →
    s'.sched = .consumer :: ts' → s'.consumer = c :: q' → s'.producer = p' →
    ∃ t t', step s = .next t ∧ step s' = .next t' ∧ t.rsp = t'.rsp ∧ t.slot = t'.slot ∧ t.head = t'.head ∧
      t.count = t'.count

/-- 20_memory.md section 5: a schedule without resets runs the agents' commands as one stream, one after another, whatever
the merge: the ring left is that of the commands of the stream in order. -/
def Obligations.ScheduleRunsTheMergedStream : Prop :=
  ∀ s : State, Turn.rst ∉ s.sched →
    ∃ rs t u, runCommands (mergedStream s.sched s.producer s.consumer) s = some (rs, t) ∧
      Sys2Proof.core.run s.sched.length s = .next u ∧
      u.slot = t.slot ∧ u.head = t.head ∧ u.count = t.count

/-- 20_memory.md section 5 (`SCHED`): the streams of the schedules that give each agent as many turns as it has commands are
exactly the merges that keep each agent's own order. -/
def Obligations.SchedulesAreTheMerges : Prop :=
  ∀ p c l : List Request, Interleaves p c l ↔
    ∃ sched : List Turn, Turn.rst ∉ sched ∧ sched.count .producer = p.length ∧ sched.count .consumer = c.length ∧
      mergedStream sched p c = l

/-- 30_encoding.md section 7: the six bytes of a field are cut into its two words, both are answered valid, and the field's
decode command answers the word the field was made of. -/
def Obligations.FieldOfAWordDecodesToIt : Prop :=
  ∀ (w : Word32) (s : State),
    let f := Field.ofWord w
    cutWords [f.first.d0, f.first.d1, f.first.c, f.second.d0, f.second.d1, f.second.c] = [f.first, f.second] ∧
    (∃ t r, exec f.first.check s = .next t ∧ t.rsp = some r ∧ r.ok = true) ∧
    (∃ t r, exec f.second.check s = .next t ∧ t.rsp = some r ∧ r.ok = true) ∧
    (∃ t r, exec f.decodeCommand s = .next t ∧ t.rsp = some r ∧ r.word = w)
end

