-- ==== Sys2Proof/Laws/Decode.lean ====
section
/-! SUPPORT. The decoder by operation code, and a command word as its fields (30_encoding.md R51, R62). -/

namespace Sys2Proof

theorem decode_op_one {w : CmdWord} (h : opOf w = 1) :
    decode w = if (argOf w).extractLsb' 16 16 = 0 then .ok (.crcCalc (argByte1 w) (argByte0 w))
      else .error (.reservedBits 1) := by
  unfold decode; simp only [h]; rfl

theorem decode_op_two {w : CmdWord} (h : opOf w = 2) :
    decode w = if (argOf w).extractLsb' 24 8 = 0 then .ok (.crcChk (argByte2 w) (argByte1 w) (argByte0 w))
      else .error (.reservedBits 2) := by
  unfold decode; simp only [h]; rfl

theorem decode_op_three {w : CmdWord} (h : opOf w = 3) :
    decode w = .ok (.f32Dec (argByte3 w) (argByte2 w) (argByte1 w) (argByte0 w)) := by
  unfold decode; simp only [h]; rfl

theorem decode_op_four {w : CmdWord} (h : opOf w = 4) :
    decode w = if (argOf w).extractLsb' 1 31 = 0 then .ok (.fifoPush (argPresent w))
      else .error (.reservedBits 4) := by
  unfold decode; simp only [h]; rfl

theorem decode_op_five {w : CmdWord} (h : opOf w = 5) :
    decode w = if argOf w = 0 then .ok .fifoPop else .error (.reservedBits 5) := by
  unfold decode; simp only [h]; rfl

theorem decode_op_reserved {w : CmdWord} (h : (opOf w).toNat = 0 ∨ 6 ≤ (opOf w).toNat) :
    decode w = .error (.reservedOpcode (opOf w)) := by
  unfold decode; simp only; split <;> first | omega | rfl

/-- Bit `k` of the argument is bit `k + 4` of the command word. -/
theorem getLsbD_argOf (w : CmdWord) {k : Nat} (h : k < 32) : (argOf w).getLsbD k = w.getLsbD (4 + k) := by
  simp [argOf, h]

/-- Bit `k` of the operation code is bit `k` of the command word. -/
theorem getLsbD_opOf (w : CmdWord) {k : Nat} (h : k < 4) : (opOf w).getLsbD k = w.getLsbD k := by
  simp [opOf, h]

/-- A word is its four argument bytes and its operation code. -/
theorem cmdWord_eq_fields (w : CmdWord) :
    w = ((argByte3 w).setWidth 36 <<< 28) ||| ((argByte2 w).setWidth 36 <<< 20) |||
      ((argByte1 w).setWidth 36 <<< 12) ||| ((argByte0 w).setWidth 36 <<< 4) ||| (opOf w).setWidth 36 := by
  unfold argByte3 argByte2 argByte1 argByte0 argOf opOf
  ext k hk
  interval_cases k <;> simp

end Sys2Proof
end

