-- ==== Sys2Proof/Laws/State.lean ====
section
/-! SUPPORT. What each field of the state is after each named operation over it. -/

namespace Sys2Proof.Machine

/-! ### respond -/

@[simp] theorem State.respond_slot (r : Response) (s : State) : (s.respond r).slot = s.slot := rfl

@[simp] theorem State.respond_head (r : Response) (s : State) : (s.respond r).head = s.head := rfl

@[simp] theorem State.respond_count (r : Response) (s : State) : (s.respond r).count = s.count := rfl

@[simp] theorem State.respond_wdata (r : Response) (s : State) : (s.respond r).wdata = s.wdata := rfl

@[simp] theorem State.respond_rsp (r : Response) (s : State) : (s.respond r).rsp = some r := rfl

@[simp] theorem State.respond_producer (r : Response) (s : State) : (s.respond r).producer = s.producer := rfl

@[simp] theorem State.respond_consumer (r : Response) (s : State) : (s.respond r).consumer = s.consumer := rfl

@[simp] theorem State.respond_sched (r : Response) (s : State) : (s.respond r).sched = s.sched := rfl

/-! ### writeSlot -/

@[simp] theorem State.writeSlot_slot (s : State) (i : Fin 20) (e : Entry) : (s.writeSlot i e).slot = s.slot.set i e := rfl

@[simp] theorem State.writeSlot_head (s : State) (i : Fin 20) (e : Entry) : (s.writeSlot i e).head = s.head := rfl

@[simp] theorem State.writeSlot_count (s : State) (i : Fin 20) (e : Entry) : (s.writeSlot i e).count = s.count := rfl

@[simp] theorem State.writeSlot_wdata (s : State) (i : Fin 20) (e : Entry) : (s.writeSlot i e).wdata = s.wdata := rfl

@[simp] theorem State.writeSlot_rsp (s : State) (i : Fin 20) (e : Entry) : (s.writeSlot i e).rsp = s.rsp := rfl

@[simp] theorem State.writeSlot_producer (s : State) (i : Fin 20) (e : Entry) : (s.writeSlot i e).producer = s.producer := rfl

@[simp] theorem State.writeSlot_consumer (s : State) (i : Fin 20) (e : Entry) : (s.writeSlot i e).consumer = s.consumer := rfl

@[simp] theorem State.writeSlot_sched (s : State) (i : Fin 20) (e : Entry) : (s.writeSlot i e).sched = s.sched := rfl

/-! ### appendNewest -/

@[simp] theorem State.appendNewest_slot (e : Entry) (s : State) : (s.appendNewest e).slot = s.slot.set (slotIndex s.head s.count.val) e := rfl

@[simp] theorem State.appendNewest_head (e : Entry) (s : State) : (s.appendNewest e).head = s.head := rfl

@[simp] theorem State.appendNewest_count (e : Entry) (s : State) : (s.appendNewest e).count = incCount s.count := rfl

@[simp] theorem State.appendNewest_wdata (e : Entry) (s : State) : (s.appendNewest e).wdata = s.wdata := rfl

@[simp] theorem State.appendNewest_rsp (e : Entry) (s : State) : (s.appendNewest e).rsp = s.rsp := rfl

@[simp] theorem State.appendNewest_producer (e : Entry) (s : State) : (s.appendNewest e).producer = s.producer := rfl

@[simp] theorem State.appendNewest_consumer (e : Entry) (s : State) : (s.appendNewest e).consumer = s.consumer := rfl

@[simp] theorem State.appendNewest_sched (e : Entry) (s : State) : (s.appendNewest e).sched = s.sched := rfl

/-! ### replaceOldest -/

@[simp] theorem State.replaceOldest_slot (e : Entry) (s : State) : (s.replaceOldest e).slot = s.slot.set s.head e := rfl

@[simp] theorem State.replaceOldest_head (e : Entry) (s : State) : (s.replaceOldest e).head = nextIndex s.head := rfl

@[simp] theorem State.replaceOldest_count (e : Entry) (s : State) : (s.replaceOldest e).count = s.count := rfl

@[simp] theorem State.replaceOldest_wdata (e : Entry) (s : State) : (s.replaceOldest e).wdata = s.wdata := rfl

@[simp] theorem State.replaceOldest_rsp (e : Entry) (s : State) : (s.replaceOldest e).rsp = s.rsp := rfl

@[simp] theorem State.replaceOldest_producer (e : Entry) (s : State) : (s.replaceOldest e).producer = s.producer := rfl

@[simp] theorem State.replaceOldest_consumer (e : Entry) (s : State) : (s.replaceOldest e).consumer = s.consumer := rfl

@[simp] theorem State.replaceOldest_sched (e : Entry) (s : State) : (s.replaceOldest e).sched = s.sched := rfl

/-! ### removeOldest -/

@[simp] theorem State.removeOldest_slot (s : State) : s.removeOldest.slot = s.slot := rfl

@[simp] theorem State.removeOldest_head (s : State) : s.removeOldest.head = nextIndex s.head := rfl

@[simp] theorem State.removeOldest_count (s : State) : s.removeOldest.count = decCount s.count := rfl

@[simp] theorem State.removeOldest_wdata (s : State) : s.removeOldest.wdata = s.wdata := rfl

@[simp] theorem State.removeOldest_rsp (s : State) : s.removeOldest.rsp = s.rsp := rfl

@[simp] theorem State.removeOldest_producer (s : State) : s.removeOldest.producer = s.producer := rfl

@[simp] theorem State.removeOldest_consumer (s : State) : s.removeOldest.consumer = s.consumer := rfl

@[simp] theorem State.removeOldest_sched (s : State) : s.removeOldest.sched = s.sched := rfl

/-! ### resetBlock -/

@[simp] theorem State.resetBlock_slot (s : State) : s.resetBlock.slot = State.reset.slot := rfl

@[simp] theorem State.resetBlock_head (s : State) : s.resetBlock.head = 0 := rfl

@[simp] theorem State.resetBlock_count (s : State) : s.resetBlock.count = 0 := rfl

@[simp] theorem State.resetBlock_wdata (s : State) : s.resetBlock.wdata = s.wdata := rfl

@[simp] theorem State.resetBlock_rsp (s : State) : s.resetBlock.rsp = none := rfl

@[simp] theorem State.resetBlock_producer (s : State) : s.resetBlock.producer = s.producer := rfl

@[simp] theorem State.resetBlock_consumer (s : State) : s.resetBlock.consumer = s.consumer := rfl

@[simp] theorem State.resetBlock_sched (s : State) : s.resetBlock.sched = s.sched := rfl

/-! ### placeCommand -/

@[simp] theorem State.placeCommand_slot (s : State) (w : CmdWord) : (s.placeCommand w).slot = s.slot := rfl

@[simp] theorem State.placeCommand_head (s : State) (w : CmdWord) : (s.placeCommand w).head = s.head := rfl

@[simp] theorem State.placeCommand_count (s : State) (w : CmdWord) : (s.placeCommand w).count = s.count := rfl

@[simp] theorem State.placeCommand_wdata (s : State) (w : CmdWord) : (s.placeCommand w).wdata = s.wdata := rfl

@[simp] theorem State.placeCommand_rsp (s : State) (w : CmdWord) : (s.placeCommand w).rsp = s.rsp := rfl

@[simp] theorem State.placeCommand_producer (s : State) (w : CmdWord) : (s.placeCommand w).producer = ⟨w, 0⟩ :: s.producer := rfl

@[simp] theorem State.placeCommand_consumer (s : State) (w : CmdWord) : (s.placeCommand w).consumer = s.consumer := rfl

@[simp] theorem State.placeCommand_sched (s : State) (w : CmdWord) : (s.placeCommand w).sched = .producer :: s.sched := rfl

/-! ### takeTurn, accept, idle -/

@[simp] theorem State.takeTurn_slot (s : State) : s.takeTurn.slot = s.slot := by
  unfold State.takeTurn; split <;> rfl

@[simp] theorem State.takeTurn_head (s : State) : s.takeTurn.head = s.head := by
  unfold State.takeTurn; split <;> rfl

@[simp] theorem State.takeTurn_count (s : State) : s.takeTurn.count = s.count := by
  unfold State.takeTurn; split <;> rfl

@[simp] theorem State.takeTurn_wdata (s : State) : s.takeTurn.wdata = s.wdata := by
  unfold State.takeTurn; split <;> rfl

@[simp] theorem State.takeTurn_rsp (s : State) : s.takeTurn.rsp = s.rsp := by
  unfold State.takeTurn; split <;> rfl

@[simp] theorem State.accept_slot (r : Request) (s : State) : (s.accept r).slot = s.slot := s.takeTurn_slot

@[simp] theorem State.accept_head (r : Request) (s : State) : (s.accept r).head = s.head := s.takeTurn_head

@[simp] theorem State.accept_count (r : Request) (s : State) : (s.accept r).count = s.count := s.takeTurn_count

@[simp] theorem State.accept_wdata (r : Request) (s : State) : (s.accept r).wdata = r.wdata := rfl

@[simp] theorem State.accept_rsp (r : Request) (s : State) : (s.accept r).rsp = s.rsp := s.takeTurn_rsp

@[simp] theorem State.accept_producer (r : Request) (s : State) : (s.accept r).producer = s.takeTurn.producer := rfl

@[simp] theorem State.accept_consumer (r : Request) (s : State) : (s.accept r).consumer = s.takeTurn.consumer := rfl

@[simp] theorem State.accept_sched (r : Request) (s : State) : (s.accept r).sched = s.takeTurn.sched := rfl

@[simp] theorem State.idle_slot (s : State) : s.idle.slot = s.slot := s.takeTurn_slot

@[simp] theorem State.idle_head (s : State) : s.idle.head = s.head := s.takeTurn_head

@[simp] theorem State.idle_count (s : State) : s.idle.count = s.count := s.takeTurn_count

@[simp] theorem State.idle_wdata (s : State) : s.idle.wdata = s.wdata := s.takeTurn_wdata

@[simp] theorem State.idle_rsp (s : State) : s.idle.rsp = none := rfl

@[simp] theorem State.idle_producer (s : State) : s.idle.producer = s.takeTurn.producer := rfl

@[simp] theorem State.idle_consumer (s : State) : s.idle.consumer = s.takeTurn.consumer := rfl

@[simp] theorem State.idle_sched (s : State) : s.idle.sched = s.takeTurn.sched := rfl

end Sys2Proof.Machine
end

