-- ==== Sys2Proof/Laws/Ops.lean ====
section
/-! SUPPORT. One lemma per shared operation that says everything it can do: slots read after written, the index arithmetic
modulo 20, raising a status, the event and the turn, executing a command. -/

namespace Sys2Proof.Machine

theorem slotIndex_val (h : Fin 20) (n : Nat) : (slotIndex h n).val = (h.val + n) % 20 := rfl

theorem nextIndex_val (h : Fin 20) : (nextIndex h).val = (h.val + 1) % 20 := rfl

/-- `(head + 1) + n` and `head + (n + 1)` are the same slot. -/
theorem slotIndex_nextIndex (h : Fin 20) (n : Nat) : slotIndex (nextIndex h) n = slotIndex h (n + 1) := by
  apply Fin.ext
  simp only [slotIndex_val, nextIndex_val]
  omega

/-- The slot 20 places on is the slot itself. -/
theorem slotIndex_twenty (h : Fin 20) : slotIndex h 20 = h := by
  apply Fin.ext
  rw [slotIndex_val]
  omega

/-- Two places less than 20 apart are the same slot only when they are the same place. -/
theorem slotIndex_inj {h : Fin 20} {m n : Nat} (hm : m < 20) (hn : n < 20)
    (e : slotIndex h m = slotIndex h n) : m = n := by
  have := congrArg Fin.val e
  simp only [slotIndex_val] at this
  omega

@[simp] theorem decCount_val (c : Fin 21) : (decCount c).val = c.val - 1 := rfl

theorem incCount_val {c : Fin 21} (h : c.val < 20) : (incCount c).val = c.val + 1 := by
  simp [incCount, h]

/-- Reading a slot after a write gives the entry written there, and every other slot is as before. -/
theorem State.readSlot_writeSlot (s : State) (i j : Fin 20) (e : Entry) :
    (s.writeSlot i e).readSlot j = if j = i then e else s.readSlot j := by
  by_cases h : j = i
  · subst h; simp [State.readSlot]
  · have hv : i.val ≠ j.val := fun hv => h (Fin.ext hv.symm)
    simp [State.readSlot, h, hv]

@[simp] theorem State.readSlot_respond (r : Response) (s : State) (j : Fin 20) :
    (s.respond r).readSlot j = s.readSlot j := rfl

@[simp] theorem State.readSlot_removeOldest (s : State) (j : Fin 20) :
    s.removeOldest.readSlot j = s.readSlot j := rfl

theorem State.readSlot_appendNewest (e : Entry) (s : State) (j : Fin 20) :
    (s.appendNewest e).readSlot j = if j = slotIndex s.head s.count.val then e else s.readSlot j :=
  s.readSlot_writeSlot _ j e

theorem State.readSlot_replaceOldest (e : Entry) (s : State) (j : Fin 20) :
    (s.replaceOldest e).readSlot j = if j = s.head then e else s.readSlot j :=
  s.readSlot_writeSlot _ j e

/-- Raising a status answers a next state that differs in the response alone. -/
theorem raise_eq (st : Status) (s : State) :
    raise st s = .next { s with rsp := some (Response.only st) } := rfl

@[simp] theorem State.contents_respond (r : Response) (s : State) : (s.respond r).contents = s.contents := rfl

@[simp] theorem State.length_contents (s : State) : s.contents.length = s.count.val := by
  simp [State.contents]

@[simp] theorem exec_crcCalc (d0 d1 : Byte) (s : State) :
    exec (.crcCalc d0 d1) s = .next (s.respond (crcCalcResponse d0 d1)) := rfl

@[simp] theorem exec_crcChk (d0 d1 c : Byte) (s : State) :
    exec (.crcChk d0 d1 c) s = .next (s.respond (crcChkResponse d0 d1 c)) := rfl

@[simp] theorem exec_f32Dec (b0 b1 b2 b3 : Byte) (s : State) :
    exec (.f32Dec b0 b1 b2 b3) s = .next (s.respond (f32Response (word32 b0 b1 b2 b3))) := rfl

@[simp] theorem exec_fifoPush (p : Bool) (s : State) : exec (.fifoPush p) s = execFifoPush p s := rfl

@[simp] theorem exec_fifoPop (s : State) : exec .fifoPop s = execFifoPop s := rfl

/-- Executing a command word that is no operation raises `ILLEGAL`. -/
theorem execCommand_error {r : Request} {e : Illegal} (h : decode r.cmd = .error e) (s : State) :
    execCommand r s = execIllegal s := by
  simp only [execCommand, h]

/-- Executing a command word of an operation is executing the operation. -/
theorem execCommand_ok {r : Request} {i : Instr} (h : decode r.cmd = .ok i) (s : State) :
    execCommand r s = exec i s := by
  simp only [execCommand, h]

/-- What a push does, whichever of its two forms runs. -/
theorem execFifoPush_cases (p : Bool) (s : State) :
    (s.count.val = 20 ∧
      execFifoPush p s = .next ((s.replaceOldest (s.pushedEntry p)).respond (pushResponse true))) ∨
    (s.count.val < 20 ∧
      execFifoPush p s = .next ((s.appendNewest (s.pushedEntry p)).respond (pushResponse false))) := by
  have := s.count.isLt
  unfold execFifoPush
  split
  · exact .inl ⟨‹_›, rfl⟩
  · exact .inr ⟨by omega, rfl⟩

/-- What a pop does, whichever of its two forms runs. -/
theorem execFifoPop_cases (s : State) :
    (s.count.val = 0 ∧ execFifoPop s = .next (s.respond (Response.only .empty))) ∨
    (0 < s.count.val ∧
      execFifoPop s = .next (s.removeOldest.respond (popResponse (s.readSlot s.head)))) := by
  unfold execFifoPop
  split
  · exact .inl ⟨‹_›, rfl⟩
  · exact .inr ⟨by omega, rfl⟩

/-- A step does one of three things: it is idle, it resets, or it executes the command it accepts. -/
theorem step_cases (s : State) :
    (s.nextEvent = .idle ∧ step s = .next s.idle) ∨
    (s.nextEvent = .rst ∧ step s = .next s.takeTurn.resetBlock) ∨
    (∃ r, s.nextEvent = .command r ∧ step s = execCommand r (s.accept r)) := by
  unfold step
  cases h : s.nextEvent with
  | idle => exact .inl ⟨rfl, rfl⟩
  | rst => exact .inr (.inl ⟨rfl, rfl⟩)
  | command r => exact .inr (.inr ⟨r, rfl, rfl⟩)

/-- A command comes next exactly when it is the oldest of the agent whose turn it is. -/
theorem nextEvent_command {s : State} {r : Request} :
    s.nextEvent = .command r ↔
      (∃ ts rs, s.sched = .producer :: ts ∧ s.producer = r :: rs) ∨
      (∃ ts rs, s.sched = .consumer :: ts ∧ s.consumer = r :: rs) := by
  unfold State.nextEvent eventOf
  constructor
  · intro h
    split at h
    · cases h
    · cases h
    · rename_i ts hs
      split at h
      · cases h
      · rename_i hp; cases h; exact .inl ⟨ts, _, hs, hp⟩
    · rename_i ts hs
      split at h
      · cases h
      · rename_i hp; cases h; exact .inr ⟨ts, _, hs, hp⟩
  · rintro (⟨ts, rs, h1, h2⟩ | ⟨ts, rs, h1, h2⟩) <;> simp [h1, h2]

/-- The placed command is the next event. -/
@[simp] theorem State.placeCommand_nextEvent (s : State) (w : CmdWord) :
    (s.placeCommand w).nextEvent = .command ⟨w, 0⟩ := rfl

end Sys2Proof.Machine
end

