-- ==== Sys2Proof/Laws/Fifo.lean ====
section
/-! SUPPORT. What each ring operation does to the abstract content `Q` (42_fifo.md R129), said once. -/

namespace Sys2Proof.Machine

/-- The content place by place: place `k` is the slot `k` behind `head`. -/
theorem State.getElem_contents (s : State) (k : Nat) (h : k < s.contents.length) :
    s.contents[k] = s.readSlot (slotIndex s.head k) := by
  simp [State.contents]

/-- Two states with the same ring registers have the same content. -/
theorem State.contents_congr {s t : State} (h1 : s.slot = t.slot) (h2 : s.head = t.head)
    (h3 : s.count = t.count) : s.contents = t.contents := by
  simp only [State.contents, State.readSlot, h1, h2, h3]

/-- Nothing is stored exactly when `count` is 0. -/
theorem State.contents_eq_nil {s : State} : s.contents = [] ↔ s.count.val = 0 := by
  rw [← List.length_eq_zero_iff, s.length_contents]

/-- A push into a unit that is not full appends. -/
theorem State.contents_appendNewest (e : Entry) {s : State} (h : s.count.val < 20) :
    (s.appendNewest e).contents = s.contents ++ [e] := by
  apply List.ext_getElem
  · simp [incCount_val h]
  · intro k h1 h2
    have hk : k < s.count.val + 1 := by simpa [incCount_val h] using h1
    rw [State.getElem_contents, State.readSlot_appendNewest, State.appendNewest_head]
    by_cases hc : k = s.count.val
    · subst hc
      simp
    · have hlt : k < s.count.val := by omega
      rw [if_neg (fun he => hc (slotIndex_inj (by omega) h he)),
        List.getElem_append_left (by simpa using hlt), State.getElem_contents]

/-- The removal of the oldest entry drops the first of the content. -/
theorem State.contents_removeOldest (s : State) : s.removeOldest.contents = s.contents.tail := by
  apply List.ext_getElem
  · simp
  · intro k h1 h2
    rw [State.getElem_contents, List.getElem_tail, State.getElem_contents, State.readSlot_removeOldest,
      State.removeOldest_head, slotIndex_nextIndex]

/-- A push into a full unit drops the first of the content and appends. -/
theorem State.contents_replaceOldest (e : Entry) {s : State} (h : s.count.val = 20) :
    (s.replaceOldest e).contents = s.contents.tail ++ [e] := by
  apply List.ext_getElem
  · simp [h]
  · intro k h1 h2
    have hk : k < 20 := by simpa [h] using h1
    rw [State.getElem_contents, State.readSlot_replaceOldest, State.replaceOldest_head, slotIndex_nextIndex]
    by_cases hc : k = 19
    · subst hc
      simp [slotIndex_twenty, h]
    · have hne : slotIndex s.head (k + 1) ≠ s.head := by
        intro he
        have := congrArg Fin.val he
        rw [slotIndex_val] at this
        omega
      rw [if_neg hne, List.getElem_append_left (by simp [h]; omega), List.getElem_tail,
        State.getElem_contents]

/-- The oldest entry is the one in slot `head`. -/
theorem State.head?_contents {s : State} (h : 0 < s.count.val) : s.contents.head? = some (s.readSlot s.head) := by
  have hl : 0 < s.contents.length := by simpa using h
  rw [List.head?_eq_getElem?, List.getElem?_eq_getElem hl, State.getElem_contents]
  congr 2
  apply Fin.ext
  rw [slotIndex_val]
  omega

/-- After a reset step, or at reset, nothing is stored. -/
@[simp] theorem State.contents_resetBlock (s : State) : s.resetBlock.contents = [] := by
  rw [State.contents_eq_nil]; rfl

end Sys2Proof.Machine
end

