-- ==== Sys2Proof/Laws/Operands.lean ====
section
/-! SUPPORT. The assembled float word as the four bytes behind one another, and its fields in terms of the bytes
(41_f32_decode.md R101). -/

namespace Sys2Proof.Machine

/-- Bit `k` of the assembled word, byte by byte from the last. -/
theorem getLsbD_word32 (b0 b1 b2 b3 : Byte) (k : Nat) :
    (word32 b0 b1 b2 b3).getLsbD k =
      if k < 8 then b3.getLsbD k else if k < 16 then b2.getLsbD (k - 8)
      else if k < 24 then b1.getLsbD (k - 16) else b0.getLsbD (k - 24) := by
  unfold word32
  by_cases h : k < 32
  · interval_cases k <;> simp
  · rw [BitVec.getLsbD_of_ge _ _ (by omega), if_neg (by omega), if_neg (by omega), if_neg (by omega),
      BitVec.getLsbD_of_ge _ _ (by omega)]

/-- OR of shifted bytes and concatenation coincide (43_arithmetic_and_absent_families.md R171). -/
theorem word32_eq_append (b0 b1 b2 b3 : Byte) : word32 b0 b1 b2 b3 = b0 ++ b1 ++ b2 ++ b3 := by
  apply BitVec.eq_of_getLsbD_eq
  intro k hk
  simp only [getLsbD_word32, BitVec.getLsbD_append]
  interval_cases k <;> rfl

end Sys2Proof.Machine
end

