-- ==== Sys2Proof/Laws/PerInstr.lean ====
section
/-! SUPPORT. A statement about every operation as syntax, one lemma per constructor: its encoding selects its own row of
the opcode map (30_encoding.md R56). -/

namespace Sys2Proof.Laws.SelectsOwnRow

/-- The encoding of the operation selects the operation's row. -/
def Statement (i : Instr) : Prop := (rowOf i).selects (encode i) = true

theorem crcCalc (d0 d1 : Byte) : Statement (.crcCalc d0 d1) := by
  simp only [Statement, OpRow.selects, rowOf, encode, beq_iff_eq]
  ext k hk
  interval_cases k <;> simp

theorem crcChk (d0 d1 c : Byte) : Statement (.crcChk d0 d1 c) := by
  simp only [Statement, OpRow.selects, rowOf, encode, beq_iff_eq]
  ext k hk
  interval_cases k <;> simp

theorem f32Dec (b0 b1 b2 b3 : Byte) : Statement (.f32Dec b0 b1 b2 b3) := by
  simp only [Statement, OpRow.selects, rowOf, encode, beq_iff_eq]
  ext k hk
  interval_cases k <;> simp

theorem fifoPush (present : Bool) : Statement (.fifoPush present) := by
  cases present <;> rfl

theorem fifoPop : Statement .fifoPop := rfl

end Sys2Proof.Laws.SelectsOwnRow
end

