-- ==== Sys2Proof/Laws/Safety.lean ====
section
/-! SUPPORT. The commands that push and pop, and running commands one after another, one command at a time. -/

namespace Sys2Proof.Machine

@[simp] theorem pushCommand_wdata (e : Entry) : (pushCommand e).wdata = e.data := rfl

@[simp] theorem popCommand_wdata (d : Payload) : (popCommand d).wdata = d := rfl

@[simp] theorem decode_pushCommand (e : Entry) : decode (pushCommand e).cmd = .ok (.fifoPush e.present) := by
  show decode (encode (.fifoPush e.present)) = _
  cases e.present <;> decide

@[simp] theorem decode_popCommand (d : Payload) : decode (popCommand d).cmd = .ok .fifoPop := by
  show decode (encode .fifoPop) = _
  decide

@[simp] theorem runCommands_nil (s : State) : runCommands [] s = some ([], s) := rfl

/-- The first command of a sequence answers `r` and leaves `t`; the others run on `t`. -/
theorem runCommands_cons {c : Request} {rest : List Request} {rs : List Response} {s t u : State} {r : Response}
    (h : execCommand c { s with wdata := c.wdata } = .next t) (hr : t.rsp = some r)
    (hrest : runCommands rest t = some (rs, u)) : runCommands (c :: rest) s = some (r :: rs, u) := by
  simp only [runCommands, h, hr, hrest]

end Sys2Proof.Machine
end

