-- ==== Sys2Proof/Tests/Slice0.lean ====
section
/-! SUPPORT. Tests. The expected values are the spec's own (95_test_vectors.md, and the worked examples of the rules named);
each is one step on a small state. The theorems named `witness_…` show that the hypotheses of a statement can be met. -/

namespace Sys2Proof.Tests

open Sys2Proof.Machine

/-! ### Helpers -/

/-- A state with `n` placeholders of zeros stored from slot `h` on. -/
def filled (h : Fin 20) (n : Fin 21) : State := { State.reset with head := h, count := n }

/-- A state whose next event is the producer's command `w`. -/
def asked (w : CmdWord) (s : State) : State := s.placeCommand w

/-- What `f` makes of the next state, if there is one. -/
def after {α : Type} (f : State → α) : Answer → Option α
  | .next t => some (f t)
  | .fault _ => none
  | .refused _ => none

/-- What `f` makes of the response in the next state, if there is one. -/
def answered {α : Type} (f : Response → α) (a : Answer) : Option α := (after (fun s => s.rsp.map f) a).join

/-! ### Well-formedness: one ill-formed term for each check -/

/-- 30_encoding.md R65: bytes are 0 to 255. -/
theorem test_wf_refuses_byte_operands :
    (AsmLine.crcCalc 256 0).wf = false ∧ (AsmLine.crcCalc 0 256).wf = false ∧
    (AsmLine.crcChk 256 0 0).wf = false ∧ (AsmLine.crcChk 0 256 0).wf = false ∧
    (AsmLine.crcChk 0 0 256).wf = false ∧ (AsmLine.f32Dec 256 0 0 0).wf = false ∧
    (AsmLine.f32Dec 0 256 0 0).wf = false ∧ (AsmLine.f32Dec 0 0 256 0).wf = false ∧
    (AsmLine.f32Dec 0 0 0 256).wf = false := by decide

/-- 30_encoding.md R65: `present` is 0 or 1, a word to decode has 32 bits. -/
theorem test_wf_refuses_present_and_word :
    (AsmLine.fifoPush 2 0).wf = false ∧ (AsmLine.f32DecW (2 ^ 32)).wf = false := by decide

/-- 30_encoding.md R65: `data` has `REC_W` bits. -/
theorem test_wf_refuses_wide_data :
    (AsmLine.fifoPush 1 (2 ^ Config.recW)).wf = false ∧ (AsmLine.fifoPushR (2 ^ Config.recW)).wf = false := by
  simp [AsmLine.wf, fitsBits]

/-- 30_encoding.md R57: reserved operation codes (V-ILL-1 to V-ILL-3). -/
theorem test_wf_refuses_reserved_op :
    legalWord 0x000000000 = false ∧ legalWord 0x000000006 = false ∧ legalWord 0xFFFFFFFFF = false := by decide

/-- 30_encoding.md R58: a reserved bit in each format that has one (V-ILL-4 to V-ILL-7). -/
theorem test_wf_refuses_reserved_bits :
    legalWord 0x0001BEEF1 = false ∧ legalWord 0x01BEEF922 = false ∧ legalWord 0x000000024 = false ∧
    legalWord 0x000000015 = false := by decide

/-! ### Decoding: words written out bit by bit from the encoding strings of R56 -/

theorem test_decode_crcCalc :
    decode 0b000000000000000010111110111011110001#36 = .ok (.crcCalc 0b10111110 0b11101111) := by decide

theorem test_decode_crcChk :
    decode 0b000000001011111011101111100100100010#36 = .ok (.crcChk 0b10111110 0b11101111 0b10010010) := by decide

theorem test_decode_f32Dec :
    decode 0b000100100011010001010110011110000011#36 = .ok (.f32Dec 0x12 0x34 0x56 0x78) := by decide

theorem test_decode_fifoPush :
    decode 0b000000000000000000000000000000010100#36 = .ok (.fifoPush true) ∧
    decode 0b000000000000000000000000000000000100#36 = .ok (.fifoPush false) := by decide

theorem test_decode_fifoPop : decode 0b000000000000000000000000000000000101#36 = .ok .fifoPop := by decide

/-- V-ILL-1 to V-ILL-9: what is refused, and by which name. -/
theorem test_decode_refuses :
    decode 0x000000000 = .error (.reservedOpcode 0) ∧ decode 0x00000000F = .error (.reservedOpcode 15) ∧
    decode 0x0001BEEF1 = .error (.reservedBits 1) ∧ decode 0x01BEEF922 = .error (.reservedBits 2) ∧
    decode 0x000000024 = .error (.reservedBits 4) ∧ decode 0x000000015 = .error (.reservedBits 5) ∧
    decode 0xFFFFFFFF3 = .ok (.f32Dec 0xFF 0xFF 0xFF 0xFF) := by decide

/-- The table's numbering of bits; a bit above bit 35 is no command word. -/
theorem test_decodeTableWord :
    decodeTableWord 40 0x00BEEF922 = some (.crcChk 0xBE 0xEF 0x92) ∧
    decodeTableWord 36 0x41C400003 = some (.f32Dec 0x41 0xC4 0x00 0x00) ∧
    decodeTableWord 40 0x1000000005 = none := by decide

/-- 30_encoding.md R65, R66: the examples. -/
theorem test_assemble :
    (assemble (.crcChk 0xBE 0xEF 0x92)).map Prod.fst = some 0x00BEEF922 ∧
    (assemble (.f32DecW 0x41C40000)).map Prod.fst = some 0x41C400003 ∧
    assemble .fifoPushE = some (0x000000004, 0) := by
  refine ⟨by decide, by decide, ?_⟩
  simp [assemble, AsmLine.wf, AsmLine.expand, AsmLine.cmdNat, AsmLine.wdataNat]

/-! ### The operations -/

/-- V-CRC-1. -/
theorem test_crcCalc_golden :
    answered (fun r => (r.status, r.crc)) (exec (.crcCalc 0xBE 0xEF) State.reset) = some (.ok, 0x92) := by decide +kernel

/-- V-CRC-5 against V-CRC-4: byte order. -/
theorem test_crcCalc_byte_order :
    answered Response.crc (exec (.crcCalc 0x00 0xFF) State.reset) = some 0x2D ∧
    answered Response.crc (exec (.crcCalc 0xFF 0x00) State.reset) = some 0x00 := by decide +kernel

/-- V-CHK-7. -/
theorem test_crcChk_valid :
    answered (fun r => (r.status, r.ok, r.crc)) (exec (.crcChk 0xFF 0x00 0x00) State.reset) =
      some (.ok, true, 0x00) := by decide +kernel

/-- V-CHK-3. -/
theorem test_crcChk_invalid :
    answered (fun r => (r.status, r.ok, r.crc)) (exec (.crcChk 0xBE 0xEE 0x92) State.reset) =
      some (.crcMismatch, false, 0xA3) := by decide +kernel

/-- V-F32-24: the widest result. -/
theorem test_f32Dec_most_negative :
    answered (fun r => (r.status, r.milli.toInt)) (exec (.f32Dec 0xFF 0x7F 0xFF 0xFF) State.reset) =
      some (.ok, -340282346638528859811704183484516925440000) := by decide

/-- V-F32-28. -/
theorem test_f32Dec_nan :
    answered (fun r => (r.status, r.cls, r.frac, r.milli)) (exec (.f32Dec 0x7F 0x80 0x00 0x01) State.reset) =
      some (.nonfinite, .nan, 1, 0) := by decide

/-- P3, command 21: a full unit whose oldest entry is in slot 0. -/
theorem test_fifoPush_evicts :
    answered Response.evicted (exec (.fifoPush true) (filled 0 20)) = some true ∧
    after (fun t => (t.head, t.count, (t.readSlot 0).present)) (exec (.fifoPush true) (filled 0 20)) =
      some (1, 20, true) := by decide

/-- 42_fifo.md R130: with `head` 18 and three entries a push writes slot 1. -/
theorem test_fifoPush_wraps :
    answered Response.evicted (exec (.fifoPush true) (filled 18 3)) = some false ∧
    after (fun t => (t.head, t.count, (t.readSlot 1).present, (t.readSlot 0).present))
      (exec (.fifoPush true) (filled 18 3)) = some (18, 4, true, false) := by decide

/-- V-FIFO-1. -/
theorem test_fifoPop_empty :
    answered (fun r => (r.status, r.got)) (exec .fifoPop State.reset) = some (.empty, false) ∧
    after (fun t => (t.head, t.count)) (exec .fifoPop State.reset) = some (0, 0) := by decide

/-- 42_fifo.md R130, R127: a placeholder popped from slot 19. -/
theorem test_fifoPop_wraps :
    answered (fun r => (r.status, r.got, r.present)) (exec .fifoPop (filled 19 2)) = some (.ok, true, false) ∧
    after (fun t => (t.head, t.count)) (exec .fifoPop (filled 19 2)) = some (0, 1) := by decide

/-- V-FIFO-3 and V-FIFO-5: what a push stored comes back bit for bit, for every payload, a placeholder's too. -/
theorem test_fifoPop_verbatim (d : Payload) :
    exec (.fifoPush false) { State.reset with wdata := d } =
      .next ((State.appendNewest ⟨false, d⟩ { State.reset with wdata := d }).respond (pushResponse false)) ∧
    answered (fun r => (r.present, r.rdata)) (exec .fifoPop (State.appendNewest ⟨false, d⟩ State.reset)) =
      some (false, d) := ⟨rfl, rfl⟩

/-! ### Steps -/

/-- V-ILL-5, V-ILL-7: no operation runs, nothing is pushed or popped. -/
theorem test_step_illegal :
    answered (fun r => (r.status, r.crc, r.ok)) (step (State.reset.withFetchWord 40 0x01BEEF922)) =
      some (.illegal, 0, false) ∧
    after State.count (step ((filled 0 1).withFetchWord 40 0x000000015)) = some 1 := by decide

/-- P1, command 1, as the first command after reset. -/
theorem test_step_first_command :
    answered (fun r => (r.status, r.crc)) (step (State.reset.withFetchWord 40 0x0041C47F2)) = some (.ok, 0x7F) := by
  decide +kernel

/-- 70_reset_and_hazards.md R160. -/
theorem test_step_reset :
    after (fun t => (t.head, t.count, t.fifoEmpty)) (step { filled 7 20 with sched := [.rst] }) =
      some (0, 0, true) := by decide

/-- P4, start A: the two merges of one push and one pop, by their schedules. -/
theorem test_schedules_differ :
    let s : State := { State.reset with producer := [⟨0x14, 0⟩], consumer := [⟨0x5, 0⟩] }
    after State.count (Sys2Proof.core.run 2 { s with sched := [.producer, .consumer] }) = some 0 ∧
    after State.count (Sys2Proof.core.run 2 { s with sched := [.consumer, .producer] }) = some 1 := by decide

/-! ### Witnesses: the hypotheses of the statements can be met -/

theorem witness_OpcodeMapSelectsWhatDecodes :
    rowOf (.crcCalc 0 0) ∈ opcodeTable ∧ (rowOf (.crcCalc 0 0)).selects 0x0000BEEF1 = true := by decide

theorem witness_EncodeOfDecode : decode 0x00BEEF922 = .ok (.crcChk 0xBE 0xEF 0x92) := by decide

theorem witness_AssemblerLinesEncode :
    (255 < 256 ∨ 255 < 0) ∧ (1 < 2 ∨ 2 ^ Config.recW ≤ 0) ∧ (1 < 0 ∨ 2 ^ Config.recW ≤ 2 ^ Config.recW) ∧
    2 ^ 32 ≤ 0x100000000 := by simp

theorem witness_ReservedOpcodeIsIllegal :
    (asked 0x0 State.reset).nextEvent = .command ⟨0x0, 0⟩ ∧ (opOf 0x0).toNat = 0 ∧
    (asked 0x6 State.reset).nextEvent = .command ⟨0x6, 0⟩ ∧ 6 ≤ (opOf 0x6).toNat ∧
    (asked 0xF State.reset).nextEvent = .command ⟨0xF, 0⟩ ∧ 6 ≤ (opOf 0xF).toNat :=
  ⟨rfl, rfl, rfl, by decide, rfl, by decide⟩

theorem witness_ReservedBitIsIllegal :
    (∀ w, (asked w State.reset).nextEvent = .command ⟨w, 0⟩) ∧
    (opOf 0x000100001 = 1 ∧ (0x000100001 : CmdWord).extractLsb' 20 16 ≠ 0) ∧
    (opOf 0x010000002 = 2 ∧ (0x010000002 : CmdWord).extractLsb' 28 8 ≠ 0) ∧
    (opOf 0x000000024 = 4 ∧ (0x000000024 : CmdWord).extractLsb' 5 31 ≠ 0) ∧
    (opOf 0x000000015 = 5 ∧ (0x000000015 : CmdWord).extractLsb' 4 32 ≠ 0) ∧ opOf 0xFFFFFFFF3 = 3 :=
  ⟨fun _ => rfl, by decide, by decide, by decide, by decide, by decide⟩

theorem witness_StepRunsDecodedOperation :
    decode 0x5 = .ok .fifoPop ∧ (asked 0x5 State.reset).sched = .producer :: [] ∧
    (asked 0x5 State.reset).producer = ⟨0x5, 0⟩ :: [] ∧
    ({ State.reset with sched := [.consumer], consumer := [⟨0x5, 0⟩] } : State).sched = .consumer :: [] ∧
    ({ State.reset with sched := [.consumer], consumer := [⟨0x5, 0⟩] } : State).consumer = ⟨0x5, 0⟩ :: [] :=
  ⟨by decide, rfl, rfl, rfl, rfl⟩

theorem witness_IdleStepHoldsTheBlock :
    State.reset.sched = [] ∧ State.reset.producer = [] ∧ State.reset.consumer = [] ∧
    ({ State.reset with sched := [.producer] } : State).sched = .producer :: [] ∧
    ({ State.reset with sched := [.consumer] } : State).sched = .consumer :: [] := ⟨rfl, rfl, rfl, rfl, rfl⟩

theorem witness_ResetStepEmptiesTheUnit : ({ filled 7 20 with sched := [.rst] } : State).sched = .rst :: [] := rfl

/-- A push into the empty unit, the push that fills it, and the pop after that, each changes an output. -/
theorem witness_StatusOutputsFollowCount :
    after State.fifoCount (step (asked 0x4 (filled 0 0))) = some 1 ∧ (asked 0x4 (filled 0 0)).fifoCount = 0 ∧
    after State.fifoFull (step (asked 0x4 (filled 0 19))) = some true ∧ (asked 0x4 (filled 0 19)).fifoFull = false ∧
    after State.fifoFull (step (asked 0x5 (filled 0 20))) = some false ∧
    (asked 0x5 (filled 0 20)).fifoFull = true := by decide

theorem witness_StepKeepsPortInv :
    (asked 0x5 State.reset).PortInv ∧ after State.count (step (asked 0x5 State.reset)) = some 0 :=
  ⟨fun _ h => by simp [asked, State.placeCommand, State.reset] at h, by decide⟩

/-- A command of each operation and a word that is none: each answers a next state with a response. -/
theorem witness_UnassignedFieldsAreZero :
    answered Response.status (execCommand ⟨0x0000BEEF1, 0⟩ State.reset) = some .ok ∧
    answered Response.status (execCommand ⟨0x41C400003, 0⟩ State.reset) = some .ok ∧
    answered Response.status (execCommand ⟨0x000000014, 0⟩ State.reset) = some .ok ∧
    answered Response.status (execCommand ⟨0x000000005, 0⟩ State.reset) = some .empty ∧
    answered Response.status (execCommand ⟨0x000000000, 0⟩ State.reset) = some .illegal := by decide

/-- The same for `CRC.CHK`: V-CHK-1. -/
theorem witness_UnassignedFieldsAreZero_crcChk :
    answered Response.status (execCommand ⟨0x00BEEF922, 0⟩ State.reset) = some .ok := by decide +kernel

theorem witness_CrcChkComparesTheChecksum : crc8ByTable 0xBE 0xEF = 0x92 ∧ crc8ByTable 0xBE 0xEF ≠ 0x93 := by decide +kernel

theorem witness_ChecksumProperties :
    exec (.crcCalc 0xBE 0xEF) State.reset = .next (State.reset.respond (crcCalcResponse 0xBE 0xEF)) ∧
    exec (.crcCalc 0xBE 0xEF) (filled 3 20) = .next ((filled 3 20).respond (crcCalcResponse 0xBE 0xEF)) := ⟨rfl, rfl⟩

theorem witness_CorruptedWordsAreFound :
    crc8 0xBE 0xEF = 0x92 ∧ (0x01 : Byte) ≠ 0 ∧
    1 ≤ bitCount 0x01 + bitCount 0x00 + bitCount 0x00 ∧ bitCount 0x01 + bitCount 0x00 + bitCount 0x00 ≤ 3 ∧
    1 ≤ bitCount 0x80 + bitCount 0x01 + bitCount 0x10 ∧ bitCount 0x80 + bitCount 0x01 + bitCount 0x10 ≤ 3 := by decide +kernel

/-- A word in each row of the class table, at the ends of each range: V-F32-2, -20, -21, -22, -23, -25, -28, -29. -/
theorem witness_FloatClassTable :
    answered (fun r => (r.exp, r.frac)) (exec (.f32Dec 0x00 0x00 0x00 0x00) State.reset) = some (0, 0) ∧
    answered (fun r => (r.exp, r.frac)) (exec (.f32Dec 0x00 0x00 0x00 0x01) State.reset) = some (0, 1) ∧
    answered (fun r => (r.exp, r.frac)) (exec (.f32Dec 0x00 0x7F 0xFF 0xFF) State.reset) = some (0, 0x7FFFFF) ∧
    answered (fun r => (r.exp, r.frac)) (exec (.f32Dec 0x00 0x80 0x00 0x00) State.reset) = some (1, 0) ∧
    answered (fun r => (r.exp, r.frac)) (exec (.f32Dec 0x7F 0x7F 0xFF 0xFF) State.reset) = some (254, 0x7FFFFF) ∧
    answered (fun r => (r.exp, r.frac)) (exec (.f32Dec 0x7F 0x80 0x00 0x00) State.reset) = some (255, 0) ∧
    answered (fun r => (r.exp, r.frac)) (exec (.f32Dec 0x7F 0x80 0x00 0x01) State.reset) = some (255, 1) ∧
    answered (fun r => (r.exp, r.frac)) (exec (.f32Dec 0xFF 0xFF 0xFF 0xFF) State.reset) = some (255, 0x7FFFFF) := by
  decide

theorem witness_NonfiniteWordsAnswerNonfinite :
    ((0x7F : Byte) ++ (0x80 : Byte) ++ (0x00 : Byte) ++ (0x00 : Byte)).extractLsb' 23 8 = 255#8 ∧
    ((0xFF : Byte) ++ (0xFF : Byte) ++ (0xFF : Byte) ++ (0xFF : Byte)).extractLsb' 23 8 = 255#8 := by decide

/-- Of `FiniteWordsRoundHalfEven` and `RoundedWithinHalfAThousandth`, at both ends of the finite words. -/
theorem witness_FiniteWordsRoundHalfEven :
    f32Finite ((0x00 : Byte) ++ (0x00 : Byte) ++ (0x00 : Byte) ++ (0x00 : Byte)) = true ∧
    f32Finite ((0xFF : Byte) ++ (0x7F : Byte) ++ (0xFF : Byte) ++ (0xFF : Byte)) = true := by decide

/-- Of `MilliFitsItsField` and `MilliIsSignSymmetric`. -/
theorem witness_MilliFitsItsField : f32Finite 0x7F7FFFFF = true ∧ f32Finite 0x3D800000 = true := by decide

/-- The boundary words of 41_f32_decode.md R111 and the largest word of exponent 115. -/
theorem witness_SmallValuesRoundToZero :
    (f32Finite 0x3A03126E = true ∧ f32Sign 0x3A03126E = false ∧ |f32Value 0x3A03126E| < 1 / 2000) ∧
    (f32Finite 0x3A03126F = true ∧ f32Sign 0x3A03126F = false ∧ 1 / 2000 < |f32Value 0x3A03126F|) ∧
    (f32Exp 0x39FFFFFF).toNat ≤ 115 := by decide +kernel

theorem witness_ZeroAndSubnormalAnswerZero : f32Exp 0x00000000 = 0 ∧ f32Exp 0x807FFFFF = 0 := by decide

/-- Of `PopReturnsTheOldest`: nothing, one entry and 20 entries stored. -/
theorem witness_PopReturnsTheOldest :
    State.reset.contents = [] ∧ (filled 19 1).contents = Entry.atReset :: [] ∧
    ∃ q, (filled 5 20).contents = Entry.atReset :: q := ⟨rfl, rfl, _, rfl⟩

/-- Of `PushOnTheRingRegisters` and `PopOnTheRingRegisters`: 20, 19, 0 and 1 entries stored. -/
theorem witness_PushOnTheRingRegisters :
    (filled 19 20).count.val = 20 ∧ (filled 19 19).count.val < 20 ∧ (filled 0 0).count.val < 20 ∧
    0 < (filled 19 1).count.val ∧ 0 < (filled 0 20).count.val := by decide

theorem witness_PureOperationsFrame :
    isPure (.crcCalc 0 0) = true ∧ isPure (.crcChk 0 0 0) = true ∧ isPure (.f32Dec 0 0 0 0) = true := by decide

theorem witness_FifoOperationsFrame :
    exec (.fifoPush true) (filled 0 20) =
      .next (((filled 0 20).replaceOldest ⟨true, 0⟩).respond (pushResponse true)) ∧
    exec (.fifoPush true) (filled 0 19) =
      .next (((filled 0 19).appendNewest ⟨true, 0⟩).respond (pushResponse false)) ∧
    exec .fifoPop (filled 0 1) =
      .next ((filled 0 1).removeOldest.respond (popResponse Entry.atReset)) ∧
    exec .fifoPop (filled 0 0) = .next ((filled 0 0).respond (Response.only .empty)) := ⟨rfl, rfl, rfl, rfl⟩

/-- Of `RingRefinesItsContents` and `HiddenStateIsHidden`: two different states with the same content. -/
theorem witness_HiddenStateIsHidden :
    (filled 3 2).SameContents (filled 17 2) ∧ filled 3 2 ≠ filled 17 2 ∧
    (filled 3 2).contents = (filled 17 2).contents := by
  refine ⟨⟨rfl, rfl, rfl, rfl⟩, ?_, rfl⟩
  intro h
  have := congrArg (fun s => s.head.val) h
  simp [filled] at this

theorem witness_WdataMattersToPushAlone :
    (∀ present, decode 0x5 ≠ .ok (.fifoPush present)) ∧ (∀ present, decode 0x0 ≠ .ok (.fifoPush present)) := by
  decide

theorem witness_PureOperationsCommute :
    decode 0x0000BEEF1 = .ok (.crcCalc 0xBE 0xEF) ∧ isPure (.crcCalc 0xBE 0xEF) = true := by decide

/-- Nothing, one, 19 and 20 entries stored. -/
theorem witness_PushPopOrderShowsAtTheEnds :
    State.reset.contents = [] ∧
    (∃ q, (filled 4 20).contents = Entry.atReset :: Entry.atReset :: q ∧ (filled 4 20).contents.length = 20) ∧
    (1 ≤ (filled 4 1).contents.length ∧ (filled 4 1).contents.length ≤ 19) ∧
    (1 ≤ (filled 4 19).contents.length ∧ (filled 4 19).contents.length ≤ 19) :=
  ⟨rfl, ⟨_, rfl, rfl⟩, by decide, by decide⟩

theorem witness_EntriesAreConserved :
    ∃ rs t, runCommands [⟨0x14, 0⟩, ⟨0x5, 0⟩, ⟨0x0, 0⟩] State.reset = some (rs, t) := ⟨_, _, rfl⟩

theorem witness_PushesKeepTheLastTwenty : (List.replicate 20 Entry.atReset).length = 20 := by decide

theorem witness_IndicesWrapAtTwenty :
    (19 : Fin 20).val + 20 < 40 ∧ (0 : Fin 20).val + 0 < 40 ∧ (filled 18 3).head = 18 ∧ (filled 18 3).count = 3 := by
  decide

/-- A record, a placeholder and nothing stored. -/
theorem witness_ConsumerSeesRecordOrEmpty :
    (∃ s : State, s.contents = ⟨true, 0⟩ :: []) ∧ (filled 0 1).contents = ⟨false, 0⟩ :: [] ∧
    State.reset.contents = [] :=
  ⟨⟨(State.reset.appendNewest ⟨true, 0⟩), rfl⟩, rfl, rfl⟩

/-- A push that raises `count` and a pop that lowers it; a pop of one entry and a push onto 19. -/
theorem witness_OnlyPushRaisesOnlyPopLowers :
    after (fun t => t.count.val) (step (asked 0x14 (filled 0 19))) = some 20 ∧
    after (fun t => t.count.val) (step (asked 0x5 (filled 0 1))) = some 0 ∧
    (asked 0x5 (filled 0 1)).nextEvent ≠ .rst ∧ (asked 0x14 (filled 0 19)).nextEvent ≠ .rst ∧
    (asked 0x5 (filled 0 1)).fifoEmpty = false ∧ decode 0x5 = .ok .fifoPop ∧
    (asked 0x14 (filled 0 19)).fifoFull = false ∧ decode 0x14 = .ok (.fifoPush true) := by
  refine ⟨by decide, by decide, ?_, ?_, by decide, by decide, by decide, by decide⟩ <;> exact Event.noConfusion

/-- Both halves of `SingleAgentsCanTrustTheOutputs`, with one turn of the other agent first. -/
theorem witness_SingleAgentsCanTrustTheOutputs :
    (∃ s : State, s.Owned ∧ s.fifoEmpty = false ∧ s.sched = List.replicate 1 .producer ++ .consumer :: [] ∧
      s.consumer = ⟨0x5, 0⟩ :: []) ∧
    (∃ s : State, s.Owned ∧ s.fifoFull = false ∧ s.sched = List.replicate 1 .consumer ++ .producer :: [] ∧
      s.producer = ⟨0x14, 0⟩ :: []) ∧ decode 0x14 = .ok (.fifoPush true) := by
  refine ⟨⟨{ filled 0 1 with producer := [⟨0x14, 0⟩], consumer := [⟨0x5, 0⟩], sched := [.producer, .consumer] },
      ⟨?_, ?_⟩, by decide, rfl, rfl⟩,
    ⟨{ filled 0 19 with producer := [⟨0x14, 0⟩], consumer := [⟨0x5, 0⟩], sched := [.consumer, .producer] },
      ⟨?_, ?_⟩, by decide, rfl, rfl⟩, by decide⟩ <;>
    (intro r hr; simp only [List.mem_singleton] at hr; subst hr; decide)

theorem witness_IssuerIsNotSeen :
    let s : State := { filled 6 2 with sched := [.producer], producer := [⟨0x5, 0⟩] }
    let s' : State := { filled 6 2 with sched := [.consumer], consumer := [⟨0x5, 0⟩] }
    s.slot = s'.slot ∧ s.head = s'.head ∧ s.count = s'.count ∧ s.sched = .producer :: [] ∧
      s.producer = ⟨0x5, 0⟩ :: [] ∧ s'.sched = .consumer :: [] ∧ s'.consumer = ⟨0x5, 0⟩ :: [] :=
  ⟨rfl, rfl, rfl, rfl, rfl, rfl, rfl⟩

theorem witness_ScheduleRunsTheMergedStream :
    Turn.rst ∉ ({ State.reset with sched := [.producer, .consumer, .producer] } : State).sched := by decide

end Sys2Proof.Tests
end

section
/-! SUPPORT. The status outputs (10_state.md R18): each is a function of `count`, and only a push, a pop or reset changes
`count`. -/

namespace Sys2Proof.Machine

@[simp] theorem State.fifoCount_toNat (s : State) : s.fifoCount.toNat = s.count.val := by
  have hlt := s.count.isLt
  rw [State.fifoCount, BitVec.toNat_ofNat, Nat.mod_eq_of_lt (by omega)]

@[simp] theorem State.fifoEmpty_eq_true {s : State} : s.fifoEmpty = true ↔ s.count.val = 0 := decide_eq_true_iff

@[simp] theorem State.fifoFull_eq_true {s : State} : s.fifoFull = true ↔ s.count.val = 20 := decide_eq_true_iff

/-- A change of any status output shows a change of `count`. -/
theorem State.count_ne_of_outputs_ne {s t : State}
    (h : s.fifoCount ≠ t.fifoCount ∨ s.fifoEmpty ≠ t.fifoEmpty ∨ s.fifoFull ≠ t.fifoFull) : t.count ≠ s.count := by
  intro hc
  simp [State.fifoCount, State.fifoEmpty, State.fifoFull, hc] at h

/-- Of the operations only the two of the FIFO change `count`. -/
theorem exec_count_or_fifo {i : Instr} {s t : State} (h : exec i s = .next t) :
    t.count = s.count ∨ (∃ p, i = .fifoPush p) ∨ i = .fifoPop := by
  cases i with
  | crcCalc d0 d1 => cases h; exact .inl rfl
  | crcChk d0 d1 c => cases h; exact .inl rfl
  | f32Dec b0 b1 b2 b3 => cases h; exact .inl rfl
  | fifoPush p => exact .inr (.inl ⟨p, rfl⟩)
  | fifoPop => exact .inr (.inr rfl)

/-- A command that changes `count` decodes to one of the FIFO's operations; a word that is no operation does not. -/
theorem execCommand_count_or_fifo {r : Request} {s t : State} (h : execCommand r s = .next t) :
    t.count = s.count ∨ (∃ p, decode r.cmd = .ok (.fifoPush p)) ∨ decode r.cmd = .ok .fifoPop := by
  cases hd : decode r.cmd with
  | error e =>
    rw [execCommand_error hd] at h
    cases h
    exact .inl rfl
  | ok i =>
    rw [execCommand_ok hd] at h
    simpa using exec_count_or_fifo h

/-- A step that changes `count` is a reset or accepts one of the FIFO's operations. -/
theorem step_count_or_fifo {s t : State} (h : step s = .next t) :
    t.count = s.count ∨ s.nextEvent = .rst ∨
      ∃ c, s.nextEvent = .command c ∧
        ((∃ p, decode c.cmd = .ok (.fifoPush p)) ∨ decode c.cmd = .ok .fifoPop) := by
  obtain ⟨-, hs⟩ | ⟨hrst, -⟩ | ⟨c, hc, hs⟩ := step_cases s
  · cases hs.symm.trans h
    exact .inl s.idle_count
  · exact .inr (.inl hrst)
  · obtain hcount | hfifo := execCommand_count_or_fifo (hs.symm.trans h)
    · exact .inl (hcount.trans (s.accept_count c))
    · exact .inr (.inr ⟨c, hc, hfifo⟩)

/-- Settles O12: an output can change only with `count`, and `step_count_or_fifo` says which steps change that. -/
theorem statusOutputsFollowCount : Obligations.StatusOutputsFollowCount := by
  refine ⟨fun s => ⟨s.fifoCount_toNat, State.fifoEmpty_eq_true, State.fifoFull_eq_true⟩, fun s t hstep hout => ?_⟩
  obtain hcount | hrst | ⟨c, hc, ⟨p, hpush⟩ | hpop⟩ := step_count_or_fifo hstep
  · exact absurd hcount (State.count_ne_of_outputs_ne hout)
  · exact .inl hrst
  · refine .inr ⟨c, hc, ?_⟩
    cases p with
    | true => exact .inl hpush
    | false => exact .inr (.inl hpush)
  · exact .inr ⟨c, hc, .inr (.inr hpop)⟩

end Sys2Proof.Machine
end

section
/-! SUPPORT. The memory as the commands see it: the ring registers decide every response and the ring left, whatever the
ports and the agents hold (20_memory.md R34), and a command sequence runs to its end from every state (R37, R45). -/

namespace Sys2Proof.Machine

/-! ### States with the same ring registers -/

/-- The two states have the same persistent state of the block: `slot`, `head` and `count` (10_state.md R13 to R15). -/
structure State.SameRing (s t : State) : Prop where
  slot : s.slot = t.slot
  head : s.head = t.head
  count : s.count = t.count

theorem State.SameRing.refl (s : State) : s.SameRing s := ⟨rfl, rfl, rfl⟩

theorem State.SameRing.symm {s t : State} (h : s.SameRing t) : t.SameRing s :=
  ⟨h.slot.symm, h.head.symm, h.count.symm⟩

theorem State.SameRing.trans {s t u : State} (h : s.SameRing t) (h' : t.SameRing u) : s.SameRing u :=
  ⟨h.slot.trans h'.slot, h.head.trans h'.head, h.count.trans h'.count⟩

/-- Neither a sampled `wdata` nor a response is part of the ring. -/
theorem State.SameRing.setWdata {s t : State} (h : s.SameRing t) (d : Payload) :
    ({ s with wdata := d } : State).SameRing { t with wdata := d } := ⟨h.slot, h.head, h.count⟩

theorem State.SameRing.respond {s t : State} (h : s.SameRing t) (r : Response) :
    (s.respond r).SameRing (t.respond r) := ⟨h.slot, h.head, h.count⟩

/-- The oldest entry is the same. -/
theorem State.SameRing.readSlot_head {s t : State} (h : s.SameRing t) : s.readSlot s.head = t.readSlot t.head := by
  simp only [State.readSlot, h.slot, h.head]

theorem State.SameRing.appendNewest {s t : State} (h : s.SameRing t) (e : Entry) :
    (s.appendNewest e).SameRing (t.appendNewest e) where
  slot := by simp [h.slot, h.head, h.count]
  head := h.head
  count := congrArg incCount h.count

theorem State.SameRing.replaceOldest {s t : State} (h : s.SameRing t) (e : Entry) :
    (s.replaceOldest e).SameRing (t.replaceOldest e) where
  slot := by simp [h.slot, h.head]
  head := congrArg nextIndex h.head
  count := h.count

theorem State.SameRing.removeOldest {s t : State} (h : s.SameRing t) : s.removeOldest.SameRing t.removeOldest where
  slot := h.slot
  head := congrArg nextIndex h.head
  count := congrArg decCount h.count

/-! ### One operation -/

theorem execFifoPush_full (p : Bool) {s : State} (h : s.count.val = 20) :
    execFifoPush p s = .next ((s.replaceOldest (s.pushedEntry p)).respond (pushResponse true)) := if_pos h

theorem execFifoPush_room (p : Bool) {s : State} (h : s.count.val ≠ 20) :
    execFifoPush p s = .next ((s.appendNewest (s.pushedEntry p)).respond (pushResponse false)) := if_neg h

theorem execFifoPop_empty {s : State} (h : s.count.val = 0) :
    execFifoPop s = .next (s.respond (Response.only .empty)) := if_pos h

theorem execFifoPop_stored {s : State} (h : s.count.val ≠ 0) :
    execFifoPop s = .next (s.removeOldest.respond (popResponse (s.readSlot s.head))) := if_neg h

/-- A pure operation gives the same response in every state, and gives nothing but that. -/
theorem exec_of_isPure {i : Instr} (h : isPure i = true) : ∃ r, ∀ s, exec i s = .next (s.respond r) := by
  cases i with
  | crcCalc d0 d1 => exact ⟨_, exec_crcCalc d0 d1⟩
  | crcChk d0 d1 c => exact ⟨_, exec_crcChk d0 d1 c⟩
  | f32Dec b0 b1 b2 b3 => exact ⟨_, exec_f32Dec b0 b1 b2 b3⟩
  | fifoPush p => cases h
  | fifoPop => cases h

/-- The ring registers and the sampled `wdata` decide what an operation answers and the ring it leaves. -/
theorem exec_sameRing (i : Instr) {s s' : State} (h : s.SameRing s') (hw : s.wdata = s'.wdata) :
    ∃ (t t' : State) (r : Response), exec i s = .next (t.respond r) ∧
      exec i s' = .next (t'.respond r) ∧ t.SameRing t' := by
  cases i with
  | crcCalc d0 d1 => exact ⟨s, s', _, rfl, rfl, h⟩
  | crcChk d0 d1 c => exact ⟨s, s', _, rfl, rfl, h⟩
  | f32Dec b0 b1 b2 b3 => exact ⟨s, s', _, rfl, rfl, h⟩
  | fifoPush p =>
    have he : s'.pushedEntry p = s.pushedEntry p := congrArg (Entry.mk p) hw.symm
    by_cases hfull : s.count.val = 20
    · exact ⟨_, _, _, execFifoPush_full p hfull, execFifoPush_full p (h.count ▸ hfull), he ▸ h.replaceOldest _⟩
    · exact ⟨_, _, _, execFifoPush_room p hfull, execFifoPush_room p (h.count ▸ hfull), he ▸ h.appendNewest _⟩
  | fifoPop =>
    by_cases hempty : s.count.val = 0
    · exact ⟨s, s', _, execFifoPop_empty hempty, execFifoPop_empty (h.count ▸ hempty), h⟩
    · have he : s'.readSlot s'.head = s.readSlot s.head := h.readSlot_head.symm
      exact ⟨_, _, _, execFifoPop_stored hempty, he ▸ execFifoPop_stored (h.count ▸ hempty), h.removeOldest⟩

/-- The same of a command word; one that is no operation answers `ILLEGAL` on either state. -/
theorem execCommand_sameRing (c : Request) {s s' : State} (h : s.SameRing s') (hw : s.wdata = s'.wdata) :
    ∃ (t t' : State) (r : Response), execCommand c s = .next (t.respond r) ∧
      execCommand c s' = .next (t'.respond r) ∧ t.SameRing t' := by
  cases hd : decode c.cmd with
  | error e => exact ⟨s, s', _, execCommand_error hd s, execCommand_error hd s', h⟩
  | ok i =>
    rw [execCommand_ok hd, execCommand_ok hd]
    exact exec_sameRing i h hw

/-- 42_fifo.md R129 for one operation: what it stores and answers is said by the content before it. -/
theorem exec_refines_absExec (i : Instr) (s : State) : ∃ t, exec i s = .next t ∧
    t.contents = (absExec i s.wdata s.contents).1 ∧ t.rsp = some (absExec i s.wdata s.contents).2 := by
  cases i with
  | crcCalc d0 d1 => exact ⟨_, rfl, rfl, rfl⟩
  | crcChk d0 d1 c => exact ⟨_, rfl, rfl, rfl⟩
  | f32Dec b0 b1 b2 b3 => exact ⟨_, rfl, rfl, rfl⟩
  | fifoPush p =>
    obtain ⟨hfull, hs⟩ | ⟨hroom, hs⟩ := execFifoPush_cases p s
    · exact ⟨_, hs, by simp [absExec, absPush, hfull, State.contents_replaceOldest, State.pushedEntry],
        by simp [absExec, absPushResponse, pushResponse, hfull, Response.zero]⟩
    · exact ⟨_, hs, by simp [absExec, absPush, hroom, hroom.ne, State.contents_appendNewest, State.pushedEntry],
        by simp [absExec, absPushResponse, pushResponse, hroom.ne, Response.zero]⟩
  | fifoPop =>
    obtain ⟨hempty, hs⟩ | ⟨hstored, hs⟩ := execFifoPop_cases s
    · have hq : s.contents = [] := State.contents_eq_nil.mpr hempty
      exact ⟨_, hs, by simp [absExec, hq], by simp [absExec, absPopResponse, hq]⟩
    · obtain ⟨q, hq⟩ := List.head?_eq_some_iff.mp (State.head?_contents hstored)
      exact ⟨_, hs, by simp [absExec, State.contents_removeOldest], by rw [hq]; rfl⟩

/-! ### Command sequences -/

/-- From two states with the same ring a command sequence runs to its end with the same responses, one for each command,
and leaves the same ring. -/
theorem runCommands_sameRing (cs : List Request) {s s' : State} (h : s.SameRing s') : ∃ rs t t',
    runCommands cs s = some (rs, t) ∧ runCommands cs s' = some (rs, t') ∧
      rs.length = cs.length ∧ t.SameRing t' := by
  induction cs generalizing s s' with
  | nil => exact ⟨[], s, s', rfl, rfl, rfl, h⟩
  | cons c cs ih =>
    obtain ⟨t, t', r, ht, ht', hring⟩ := execCommand_sameRing c (h.setWdata c.wdata) rfl
    obtain ⟨rs, u, u', hu, hu', hlen, hring'⟩ := ih (hring.respond r)
    exact ⟨r :: rs, u, u', runCommands_cons ht rfl hu, runCommands_cons ht' rfl hu', congrArg (· + 1) hlen, hring'⟩

/-- A command sequence runs to its end from every state, with one response for each command. -/
theorem runCommands_total (cs : List Request) (s : State) :
    ∃ rs t, runCommands cs s = some (rs, t) ∧ rs.length = cs.length := by
  obtain ⟨rs, t, -, ht, -, hlen, -⟩ := runCommands_sameRing cs (State.SameRing.refl s)
  exact ⟨rs, t, ht, hlen⟩

/-- Two sequences one behind the other: the second runs on the state the first leaves. -/
theorem runCommands_append {cs ds : List Request} {rs qs : List Response} {s t u : State}
    (hcs : runCommands cs s = some (rs, t)) (hds : runCommands ds t = some (qs, u)) :
    runCommands (cs ++ ds) s = some (rs ++ qs, u) := by
  induction cs generalizing s rs with
  | nil => cases hcs; exact hds
  | cons c cs ih =>
    obtain ⟨v, -, r, hv, -, -⟩ := execCommand_sameRing c (State.SameRing.refl { s with wdata := c.wdata }) rfl
    obtain ⟨rs', t', hrs', -⟩ := runCommands_total cs (v.respond r)
    cases (runCommands_cons hv rfl hrs').symm.trans hcs
    exact runCommands_cons hv rfl (ih hrs')

/-- Settles O45: a pure command leaves the ring as it was (`exec_of_isPure`), and the ring decides what the commands
behind it answer (`runCommands_sameRing`). -/
theorem pureOperationsCommute : Obligations.PureOperationsCommute := by
  intro c i hdecode hpure
  obtain ⟨r, hr⟩ := exec_of_isPure hpure
  refine ⟨r, fun before after s => ?_⟩
  obtain ⟨rs₁, u, hbefore, hlen⟩ := runCommands_total before s
  have hc : execCommand c { u with wdata := c.wdata } = .next (({ u with wdata := c.wdata } : State).respond r) :=
    (execCommand_ok hdecode _).trans (hr _)
  have hring : u.SameRing (({ u with wdata := c.wdata } : State).respond r) := ⟨rfl, rfl, rfl⟩
  obtain ⟨rs₂, t, t', hafter, hafter', -, hsame⟩ := runCommands_sameRing after hring
  exact ⟨rs₁, rs₂, t, t', runCommands_append hbefore hafter,
    runCommands_append hbefore (runCommands_cons hc rfl hafter'), hlen, hsame.slot.symm, hsame.head.symm,
    hsame.count.symm⟩

end Sys2Proof.Machine
end

section
/-! SUPPORT. One push and one pop in either order (20_memory.md R39), first on the content, which says what the ends of the
ring show, and then on the ring registers, where the two orders meet. -/

namespace Sys2Proof.Machine

@[simp] theorem execCommand_pushCommand (e : Entry) (s : State) :
    execCommand (pushCommand e) s = exec (.fifoPush e.present) s := execCommand_ok (decode_pushCommand e) s

@[simp] theorem execCommand_popCommand (d : Payload) (s : State) :
    execCommand (popCommand d) s = exec .fifoPop s := execCommand_ok (decode_popCommand d) s

/-- A push and then a pop, on the content. -/
theorem runCommands_push_pop (e : Entry) (d : Payload) (s : State) : ∃ t,
    runCommands [pushCommand e, popCommand d] s =
      some ([absPushResponse s.contents, absPopResponse (absPush e s.contents)], t) ∧
    t.contents = (absPush e s.contents).tail := by
  obtain ⟨t, ht, hq, hr⟩ := exec_refines_absExec (.fifoPush e.present) { s with wdata := e.data }
  obtain ⟨u, hu, hq', hr'⟩ := exec_refines_absExec .fifoPop { t with wdata := d }
  have hqt : ({ t with wdata := d } : State).contents = absPush e s.contents := hq
  rw [hqt] at hq' hr'
  exact ⟨u, runCommands_cons ((execCommand_pushCommand e _).trans ht) hr
    (runCommands_cons ((execCommand_popCommand d _).trans hu) hr' (runCommands_nil u)), hq'⟩

/-- A pop and then a push, on the content. -/
theorem runCommands_pop_push (e : Entry) (d : Payload) (s : State) : ∃ t,
    runCommands [popCommand d, pushCommand e] s =
      some ([absPopResponse s.contents, absPushResponse s.contents.tail], t) ∧
    t.contents = absPush e s.contents.tail := by
  obtain ⟨t, ht, hq, hr⟩ := exec_refines_absExec .fifoPop { s with wdata := d }
  obtain ⟨u, hu, hq', hr'⟩ := exec_refines_absExec (.fifoPush e.present) { t with wdata := e.data }
  have hqt : ({ t with wdata := e.data } : State).contents = s.contents.tail := hq
  rw [hqt] at hq' hr'
  exact ⟨u, runCommands_cons ((execCommand_popCommand d _).trans ht) hr
    (runCommands_cons ((execCommand_pushCommand e _).trans hu) hr' (runCommands_nil u)), hq'⟩

/-- Between the ends `count` comes back to where it was in either order. -/
theorem decCount_incCount {c : Fin 21} (hpos : 0 < c.val) (hroom : c.val < 20) :
    decCount (incCount c) = incCount (decCount c) := by
  apply Fin.ext
  rw [decCount_val, incCount_val hroom, incCount_val (by rw [decCount_val]; omega), decCount_val]
  omega

/-- A place above 0 is one place nearer once the oldest entry is gone. -/
theorem slotIndex_nextIndex_pred (h : Fin 20) {n : Nat} (hpos : 0 < n) :
    slotIndex (nextIndex h) (n - 1) = slotIndex h n := by
  rw [slotIndex_nextIndex, Nat.sub_add_cancel hpos]

/-- Between the ends appending and removing commute. -/
theorem State.removeOldest_appendNewest_sameRing (e : Entry) {s : State} (hpos : 0 < s.count.val)
    (hroom : s.count.val < 20) : (s.appendNewest e).removeOldest.SameRing (s.removeOldest.appendNewest e) where
  slot := by simp [slotIndex_nextIndex_pred s.head hpos]
  head := rfl
  count := decCount_incCount hpos hroom

/-- Between the ends a push does not write the slot the next pop reads. -/
theorem State.readSlot_head_appendNewest (e : Entry) {s : State} (hpos : 0 < s.count.val) (hroom : s.count.val < 20) :
    (s.appendNewest e).readSlot s.head = s.readSlot s.head := by
  have hne : s.head ≠ slotIndex s.head s.count.val := by
    intro he
    have := congrArg Fin.val he
    rw [slotIndex_val] at this
    omega
  rw [State.readSlot_appendNewest, if_neg hne]

/-- A push with room reports no eviction and leaves the ring with its entry appended. -/
theorem execCommand_pushCommand_room (e : Entry) {s : State} (hroom : s.count.val ≠ 20) : ∃ t,
    execCommand (pushCommand e) { s with wdata := e.data } = .next t ∧ t.rsp = some (pushResponse false) ∧
      t.SameRing (s.appendNewest e) :=
  ⟨_, (execCommand_pushCommand e _).trans (execFifoPush_room e.present hroom), rfl, rfl, rfl, rfl⟩

/-- A pop with something stored returns the oldest entry and leaves the ring with it removed. -/
theorem execCommand_popCommand_stored (d : Payload) {s : State} (hstored : s.count.val ≠ 0) : ∃ t,
    execCommand (popCommand d) { s with wdata := d } = .next t ∧
      t.rsp = some (popResponse (s.readSlot s.head)) ∧ t.SameRing s.removeOldest :=
  ⟨_, (execCommand_popCommand d _).trans (execFifoPop_stored hstored), rfl, rfl, rfl, rfl⟩

/-- Between the ends a push and a pop answer the same in either order and leave the same ring. -/
theorem runCommands_push_pop_commute (e : Entry) (d : Payload) {s : State} (hpos : 0 < s.count.val)
    (hroom : s.count.val < 20) : ∃ r t t',
    runCommands [pushCommand e, popCommand d] s = some ([r, popResponse (s.readSlot s.head)], t) ∧
    runCommands [popCommand d, pushCommand e] s = some ([popResponse (s.readSlot s.head), r], t') ∧
    t.SameRing t' := by
  obtain ⟨a, hpush, har, ha⟩ := execCommand_pushCommand_room e hroom.ne
  obtain ⟨b, hpop, hbr, hb⟩ := execCommand_popCommand_stored d hpos.ne'
  have haStored : a.count.val ≠ 0 := by simp [ha.count, incCount_val hroom]
  have hbRoom : b.count.val ≠ 20 := by rw [hb.count, State.removeOldest_count, decCount_val]; omega
  obtain ⟨t, hpop', htr, ht⟩ := execCommand_popCommand_stored d haStored
  obtain ⟨t', hpush', htr', ht'⟩ := execCommand_pushCommand_room e hbRoom
  have holdest : a.readSlot a.head = s.readSlot s.head :=
    ha.readSlot_head.trans (s.readSlot_head_appendNewest e hpos hroom)
  rw [holdest] at htr
  have hpushPop : t.SameRing (s.appendNewest e).removeOldest := ht.trans ha.removeOldest
  have hpopPush : t'.SameRing (s.removeOldest.appendNewest e) := ht'.trans (hb.appendNewest e)
  have hring : t.SameRing t' :=
    hpushPop.trans ((State.removeOldest_appendNewest_sameRing e hpos hroom).trans hpopPush.symm)
  exact ⟨pushResponse false, t, t', runCommands_cons hpush har (runCommands_cons hpop' htr (runCommands_nil t)),
    runCommands_cons hpop hbr (runCommands_cons hpush' htr' (runCommands_nil t')), hring⟩

/-- Settles O46: at the ends by what the two orders make of the content (`runCommands_push_pop`, `runCommands_pop_push`),
between them because appending and removing commute (`runCommands_push_pop_commute`). -/
theorem pushPopOrderShowsAtTheEnds : Obligations.PushPopOrderShowsAtTheEnds := by
  intro e d s
  obtain ⟨t, ht, htq⟩ := runCommands_push_pop e d s
  obtain ⟨t', ht', htq'⟩ := runCommands_pop_push e d s
  refine ⟨fun hq => ?_, fun a₁ a₂ q hq hlen => ?_, fun hpos hroom => ?_⟩
  · rw [hq] at ht htq ht' htq'
    exact ⟨⟨_, _, t, ht, rfl, rfl, rfl, rfl, htq⟩, ⟨_, _, t', ht', rfl, htq'⟩⟩
  · have hfull : absPush e s.contents = a₂ :: q ++ [e] := by rw [absPush, if_pos hlen, hq]; rfl
    have hroom : s.contents.tail.length ≠ 20 := by simp [hlen]
    have htail : s.contents.tail = a₂ :: q := by rw [hq]; rfl
    rw [hfull] at ht htq
    rw [absPush, if_neg hroom, htail] at htq'
    rw [hq] at ht'
    exact ⟨⟨_, _, t, ht, decide_eq_true hlen, rfl, rfl, rfl, htq⟩,
      ⟨_, _, t', ht', rfl, rfl, rfl, decide_eq_false (htail ▸ hroom), htq'⟩⟩
  · rw [s.length_contents] at hpos hroom
    obtain ⟨r, u, u', hu, hu', hring⟩ := runCommands_push_pop_commute e d hpos (by omega)
    exact ⟨r, _, u, u', hu, hu', (State.head?_contents hpos).symm, hring.slot, hring.head, hring.count⟩

end Sys2Proof.Machine
end

section
/-! SUPPORT. Command words that are no operation (30_encoding.md R57, R58): the bits of the argument as bits of the word,
which words the decoder refuses, and the step that accepts such a word. -/

namespace Sys2Proof

/-- A field of the argument stands four bits higher in the command word. -/
theorem extractLsb'_argOf (w : CmdWord) {start len : Nat} (h : start + len ≤ 32) :
    (argOf w).extractLsb' start len = w.extractLsb' (4 + start) len := by
  ext k hk
  have hlt : start + k < 32 := by omega
  simp [argOf, hlt, Nat.add_assoc]

/-- A set bit among those that must be zero is refused, whatever the operation code of the four that have such bits. -/
theorem decode_reservedBits {w : CmdWord}
    (h : (opOf w = 1 ∧ w.extractLsb' 20 16 ≠ 0) ∨ (opOf w = 2 ∧ w.extractLsb' 28 8 ≠ 0) ∨
      (opOf w = 4 ∧ w.extractLsb' 5 31 ≠ 0) ∨ (opOf w = 5 ∧ w.extractLsb' 4 32 ≠ 0)) :
    decode w = .error (.reservedBits (opOf w)) := by
  obtain ⟨hop, hbits⟩ | ⟨hop, hbits⟩ | ⟨hop, hbits⟩ | ⟨hop, hbits⟩ := h
  · rw [decode_op_one hop, hop, extractLsb'_argOf w (by decide), if_neg hbits]
  · rw [decode_op_two hop, hop, extractLsb'_argOf w (by decide), if_neg hbits]
  · rw [decode_op_four hop, hop, extractLsb'_argOf w (by decide), if_neg hbits]
  · have harg : argOf w ≠ 0 := hbits
    rw [decode_op_five hop, hop, if_neg harg]

end Sys2Proof

namespace Sys2Proof.Machine

/-- The four argument bytes of format `W` assemble to the argument. -/
theorem word32_argBytes (w : CmdWord) : word32 (argByte3 w) (argByte2 w) (argByte1 w) (argByte0 w) = argOf w := by
  apply BitVec.eq_of_getLsbD_eq
  intro k hk
  simp only [getLsbD_word32, argByte3, argByte2, argByte1, argByte0, BitVec.getLsbD_extractLsb']
  interval_cases k <;> rfl

/-- The response of the float unit carries its word. -/
@[simp] theorem f32Response_word (w : Word32) : (f32Response w).word = w := by
  unfold f32Response
  split <;> rfl

/-- The float unit raises no `ILLEGAL`. -/
theorem f32Response_status_ne_illegal (w : Word32) : (f32Response w).status ≠ .illegal := by
  unfold f32Response
  split <;> exact Status.noConfusion

/-- The step executes the command that comes next on the state that has accepted it. -/
theorem step_command {s : State} {c : Request} (h : s.nextEvent = .command c) :
    step s = execCommand c (s.accept c) := by
  simp only [step, h]

/-- Executing a command of any word answers a next state with a response. -/
theorem execCommand_responds (c : Request) (s : State) : ∃ t r, execCommand c s = .next (State.respond r t) := by
  obtain ⟨t, -, r, ht, -, -⟩ := execCommand_sameRing c (State.SameRing.refl s) rfl
  exact ⟨t, r, ht⟩

/-- A word that is no operation answers `ILLEGAL` and nothing else, and the ring stays (R57, R58). -/
theorem step_decode_error {s : State} {c : Request} {e : Illegal} (h : s.nextEvent = .command c)
    (hd : decode c.cmd = .error e) : ∃ t, step s = .next t ∧ t.rsp = some (Response.only .illegal) ∧
      t.slot = s.slot ∧ t.head = s.head ∧ t.count = s.count :=
  ⟨(s.accept c).respond (Response.only .illegal), (step_command h).trans (execCommand_error hd _), rfl,
    s.accept_slot c, s.accept_head c, s.accept_count c⟩

/-- `F32.DEC` answers the float unit's response to the argument as it stands. -/
theorem step_op_three {s : State} {c : Request} (h : s.nextEvent = .command c) (hop : opOf c.cmd = 3) :
    step s = .next ((s.accept c).respond (f32Response (argOf c.cmd))) := by
  rw [step_command h, execCommand_ok (decode_op_three hop), exec_f32Dec, word32_argBytes]

/-- Settles O6: the decoder refuses a reserved operation code (`decode_op_reserved`), and a refused word answers `ILLEGAL`
(`step_decode_error`); every word answers (`execCommand_responds`). -/
theorem reservedOpcodeIsIllegal : Obligations.ReservedOpcodeIsIllegal := by
  refine ⟨fun s c h hop => step_decode_error h (decode_op_reserved hop), rfl, rfl, by decide, fun s c h => ?_⟩
  obtain ⟨t, r, ht⟩ := execCommand_responds c (s.accept c)
  exact ⟨t.respond r, (step_command h).trans ht, rfl⟩

/-- Settles O7: the decoder refuses a set reserved bit (`decode_reservedBits`), so that word answers `ILLEGAL`; the word of
an `F32.DEC` is its whole argument (`step_op_three`). -/
theorem reservedBitIsIllegal : Obligations.ReservedBitIsIllegal := by
  refine ⟨fun s c h hbits => step_decode_error h (decode_reservedBits hbits), fun s c h hop => ?_⟩
  exact ⟨_, _, step_op_three h hop, rfl, f32Response_status_ne_illegal _, f32Response_word _⟩

end Sys2Proof.Machine
end

section
/-! SUPPORT. Which fields each unit's response fills in, the others being zero (30_encoding.md R61), the FIFO's responses
as its content gives them (42_fifo.md R129). -/

namespace Sys2Proof.Machine

theorem crcChkResponse_fields (d0 d1 c : Byte) : crcChkResponse d0 d1 c = { Response.zero with
    status := (crcChkResponse d0 d1 c).status, crc := (crcChkResponse d0 d1 c).crc,
    ok := (crcChkResponse d0 d1 c).ok } := by
  unfold crcChkResponse
  split <;> rfl

theorem f32Response_fields (w : Word32) : f32Response w = { Response.zero with
    status := (f32Response w).status, word := (f32Response w).word, sign := (f32Response w).sign,
    exp := (f32Response w).exp, frac := (f32Response w).frac, cls := (f32Response w).cls,
    milli := (f32Response w).milli } := by
  unfold f32Response
  split <;> rfl

theorem absPopResponse_fields (q : List Entry) : absPopResponse q = { Response.zero with
    status := (absPopResponse q).status, got := (absPopResponse q).got, present := (absPopResponse q).present,
    rdata := (absPopResponse q).rdata } := by
  cases q with
  | nil => rfl
  | cons e q => rfl

/-- The response an operation leaves on the port is the one the content before it gives. -/
theorem exec_rsp_eq {i : Instr} {s t : State} {r : Response} (h : exec i s = .next t) (hr : t.rsp = some r) :
    r = (absExec i s.wdata s.contents).2 := by
  obtain ⟨u, hu, -, hur⟩ := exec_refines_absExec i s
  cases hu.symm.trans h
  exact Option.some.inj (hr.symm.trans hur)

/-- Settles O16: a refused word answers its status alone; an operation answers what `absExec` says, whose fields the lemmas
above list unit by unit. -/
theorem unassignedFieldsAreZero : Obligations.UnassignedFieldsAreZero := by
  intro c s t r h hr
  cases hd : decode c.cmd with
  | error e =>
    rw [execCommand_error hd] at h
    cases h
    cases hr
    rfl
  | ok i =>
    rw [execCommand_ok hd] at h
    cases exec_rsp_eq h hr
    cases i with
    | crcCalc d0 d1 => rfl
    | crcChk d0 d1 c => exact crcChkResponse_fields d0 d1 c
    | f32Dec b0 b1 b2 b3 => exact f32Response_fields (word32 b0 b1 b2 b3)
    | fifoPush p => rfl
    | fifoPop => exact absPopResponse_fields s.contents

end Sys2Proof.Machine
end

section
/-! SUPPORT. The checksum loop (40_crc8.md R81) as algebra over GF(2): one iteration is linear over XOR and injective, and
so is a pass of the outer loop, in the register and in the byte; the seed makes the checksum affine (R87). -/

namespace Sys2Proof.Machine

/-- One iteration doubles, and XORs the polynomial in when the top bit was set. -/
theorem crcShift_eq_xor (x : Byte) : crcShift x = x <<< 1 ^^^ if x.getLsbD 7 then Config.crcPoly else 0 := by
  unfold crcShift
  split <;> simp

/-- A constant that goes in on the XOR of two conditions goes in once on each: two of them cancel. -/
theorem ite_xor_eq_xor_ite (p q : Bool) (c : Byte) :
    (if p ^^ q then c else 0) = (if p then c else 0) ^^^ if q then c else 0 := by
  cases p <;> cases q <;> simp

/-- An iteration is linear over XOR. -/
theorem crcShift_xor (x y : Byte) : crcShift (x ^^^ y) = crcShift x ^^^ crcShift y := by
  simp only [crcShift_eq_xor, BitVec.shiftLeft_xor_distrib, BitVec.getLsbD_xor, ite_xor_eq_xor_ite]
  ac_rfl

@[simp] theorem crcShifts_zero (x : Byte) : crcShifts 0 x = x := rfl

theorem crcShifts_succ (n : Nat) (x : Byte) : crcShifts (n + 1) x = crcShifts n (crcShift x) := rfl

theorem crcShifts_xor (n : Nat) (x y : Byte) : crcShifts n (x ^^^ y) = crcShifts n x ^^^ crcShifts n y := by
  induction n generalizing x y with
  | zero => rfl
  | succ n ih => simp only [crcShifts_succ, crcShift_xor, ih]

/-- Only the seed keeps the checksum from being linear: iterations from zero stay there. -/
@[simp] theorem crcShifts_of_zero (n : Nat) : crcShifts n 0#8 = 0#8 := by
  have h := crcShifts_xor n 0#8 0#8
  rwa [BitVec.xor_self, BitVec.xor_self] at h

/-- The top bit comes back as bit 0, since the polynomial is odd. -/
theorem getLsbD_zero_crcShift (x : Byte) : (crcShift x).getLsbD 0 = x.getLsbD 7 := by
  rw [crcShift_eq_xor]
  cases x.getLsbD 7 <;> simp [Config.crcPoly]

/-- An iteration loses nothing: bit 0 says whether the polynomial went in, and the other bits are then those doubled. -/
theorem crcShift_injective : Function.Injective crcShift := by
  intro x y h
  have htop : x.getLsbD 7 = y.getLsbD 7 := by
    rw [← getLsbD_zero_crcShift x, h, getLsbD_zero_crcShift]
  rw [crcShift_eq_xor, crcShift_eq_xor, htop, BitVec.xor_left_inj] at h
  ext i hi
  obtain rfl | hlow : i = 7 ∨ i + 1 < 8 := by omega
  · simpa using htop
  · simpa [BitVec.getLsbD_shiftLeft, hlow] using congrArg (BitVec.getLsbD · (i + 1)) h

theorem crcShifts_injective (n : Nat) : Function.Injective (crcShifts n) := by
  induction n with
  | zero => exact Function.injective_id
  | succ n ih => exact ih.comp crcShift_injective

theorem crcByte_eq (x b : Byte) : crcByte x b = crcShifts 8 (x ^^^ b) := rfl

/-- XORing differences into the register and the byte XORs their eight iterations into the result. -/
theorem crcByte_xor (x y b d : Byte) : crcByte (x ^^^ y) (b ^^^ d) = crcByte x b ^^^ crcByte y d := by
  have hpairs : x ^^^ y ^^^ (b ^^^ d) = (x ^^^ b) ^^^ (y ^^^ d) := by ac_rfl
  rw [crcByte_eq, hpairs, crcShifts_xor, ← crcByte_eq, ← crcByte_eq]

/-- The byte that the register already holds takes it to zero. -/
@[simp] theorem crcByte_self (x : Byte) : crcByte x x = 0#8 := by
  rw [crcByte_eq, BitVec.xor_self, crcShifts_of_zero]

theorem crcByte_injective_right (x : Byte) : Function.Injective (crcByte x) := fun _ _ h =>
  (BitVec.xor_right_inj x).1 (crcShifts_injective 8 h)

theorem crcByte_injective_left (b : Byte) : Function.Injective (crcByte · b) := fun _ _ h =>
  (BitVec.xor_left_inj b).1 (crcShifts_injective 8 h)

theorem crc8_eq (d0 d1 : Byte) : crc8 d0 d1 = crcByte (crcByte Config.crcInit d0) d1 := rfl

theorem crc8_bijective_second (d0 : Byte) : Function.Bijective fun d1 => crc8 d0 d1 :=
  Finite.injective_iff_bijective.1 (crcByte_injective_right _)

theorem crc8_bijective_first (d1 : Byte) : Function.Bijective fun d0 => crc8 d0 d1 :=
  Finite.injective_iff_bijective.1 ((crcByte_injective_left d1).comp (crcByte_injective_right _))

/-- The loop over two bytes and their checksum ends in zero: the third pass meets the register with itself. -/
theorem crcBytes_zero_residue (d0 d1 : Byte) : crcBytes [d0, d1, crc8 d0 d1] = 0 :=
  crcByte_self (crc8 d0 d1)

/-- The third summand is the seed's own contribution, which the first two count twice. -/
theorem crc8_affine (a b c d : Byte) : crc8 (a ^^^ c) (b ^^^ d) = crc8 a b ^^^ crc8 c d ^^^ crc8 0 0 := by
  have hseed : Config.crcInit = Config.crcInit ^^^ Config.crcInit ^^^ Config.crcInit := by decide
  have hfirst : a ^^^ c = a ^^^ c ^^^ 0 := by simp
  have hsecond : b ^^^ d = b ^^^ d ^^^ 0 := by simp
  rw [crc8_eq, hseed, hfirst, hsecond]
  simp only [crcByte_xor, ← crc8_eq]

/-- Settles O22: the response is the checksum in every state (`exec_crcCalc`), each pass is injective in each byte
(`crcByte_injective_right`, `crcByte_injective_left`), `crcByte_self` gives the residue and linearity the affine law. -/
theorem checksumProperties : Obligations.ChecksumProperties := by
  refine ⟨fun d0 d1 s s' t t' h h' => ?_, crc8_bijective_second, crc8_bijective_first, crcBytes_zero_residue,
    crc8_affine, by decide +kernel, by decide +kernel, by decide +kernel, by decide +kernel⟩
  rw [exec_crcCalc] at h h'
  cases h
  cases h'
  exact ⟨rfl, crcCalcResponse d0 d1, rfl, rfl⟩

end Sys2Proof.Machine
end

section
/-! SUPPORT. The three other forms of the checksum (40_crc8.md R83, R89), each compared with one pass of the outer loop:
the table entry is the pass itself, the serial form is eight iterations that take the byte's bits in one at a time, and
the long division is eight iterations on the eight places below its leading one. -/

namespace Sys2Proof.Machine

/-- The table as printed, entry by entry against the iteration. -/
theorem crcLookup_eq_crcShifts : ∀ x : Byte, crcLookup x = crcShifts 8 x := by decide +kernel

/-- The table form. -/
theorem crc8_eq_crc8ByTable (d0 d1 : Byte) : crc8 d0 d1 = crc8ByTable d0 d1 := by
  simp only [crc8ByTable, crcLookup_eq_crcShifts]
  rfl

/-- The first `n` bits of a byte, most significant first: what the serial form has consumed after `n` bits. -/
def topBits : Nat → Byte → List Bool
  | 0, _ => []
  | n + 1, y => y.getLsbD 7 :: topBits n (y <<< 1)

theorem topBits_eight (b : Byte) : topBits 8 b = msbFirst b := by
  simp [topBits, msbFirst]

/-- A byte waiting in the register is taken in by its top bit; the rest of it moves up. -/
theorem crcShift_xor_eq_crcSerialBit (x y : Byte) :
    crcShift (x ^^^ y) = crcSerialBit x (y.getLsbD 7) ^^^ y <<< 1 := by
  rw [crcShift, crcSerialBit, BitVec.getLsbD_xor, BitVec.shiftLeft_xor_distrib]
  split
  · ac_rfl
  · rfl

/-- After `n` iterations the register is that of the serial form after `n` bits, XORed with the bits still to come. -/
theorem crcShifts_xor_eq_foldl (n : Nat) (x y : Byte) :
    crcShifts n (x ^^^ y) = (topBits n y).foldl crcSerialBit x ^^^ y <<< n := by
  induction n generalizing x y with
  | zero => simp [topBits]
  | succ n ih =>
    rw [crcShifts_succ, crcShift_xor_eq_crcSerialBit, ih, topBits, List.foldl_cons, ← BitVec.shiftLeft_add,
      Nat.add_comm 1 n]

/-- A pass over a byte is the serial form over its bits, none of which is left after eight. -/
theorem crcByte_eq_foldl_msbFirst (x b : Byte) : crcByte x b = (msbFirst b).foldl crcSerialBit x := by
  rw [crcByte_eq, crcShifts_xor_eq_foldl, topBits_eight, BitVec.shiftLeft_eq_zero (Nat.le_refl 8), BitVec.xor_zero]

/-- The bit-serial form. -/
theorem crc8_eq_crc8BitSerial (d0 d1 : Byte) : crc8 d0 d1 = crc8BitSerial d0 d1 := by
  rw [crc8BitSerial, List.foldl_append, ← crcByte_eq_foldl_msbFirst, ← crcByte_eq_foldl_msbFirst]
  rfl

/-- Places that do not overlap: OR and XOR put the same number together. -/
theorem shiftLeft_or_eq_xor (a : Nat) {b n : Nat} (hb : b < 2 ^ n) : a <<< n ||| b = a <<< n ^^^ b := by
  apply Nat.eq_of_testBit_eq
  intro i
  rw [Nat.testBit_or, Nat.testBit_xor, Nat.testBit_shiftLeft]
  by_cases hi : n ≤ i
  · simp [Nat.testBit_lt_two_pow (hb.trans_le (Nat.pow_le_pow_right (by decide) hi))]
  · simp [hi]

/-- An iteration as polynomials: times `x`, and minus `G` when that has degree 8. -/
theorem toNat_crcShift (x : Byte) :
    (crcShift x).toNat = if x.getLsbD 7 then x.toNat <<< 1 ^^^ 0x131 else x.toNat <<< 1 := by
  have hx := x.isLt
  have htop : x.getLsbD 7 = decide (2 ^ 7 ≤ x.toNat) := x.msb_eq_decide
  have hshift : (x <<< 1).toNat = x.toNat <<< 1 % 2 ^ 8 := x.toNat_shiftLeft
  rw [Nat.shiftLeft_eq] at hshift ⊢
  unfold crcShift
  split
  next h =>
    have hdegree : x.toNat * 2 ^ 1 = 1 <<< 8 ^^^ (x <<< 1).toNat := by
      rw [htop, decide_eq_true_iff] at h
      rw [← shiftLeft_or_eq_xor 1 (x <<< 1).isLt, ← Nat.shiftLeft_add_eq_or_of_lt (x <<< 1).isLt]
      omega
    rw [hdegree, BitVec.toNat_xor, Nat.xor_right_comm, Nat.xor_comm]
    rfl
  next h =>
    rw [htop, decide_eq_true_iff] at h
    omega

/-- `k` steps of the long division, whose leading eight places hold `x` and whose other places are those of `m`, are `k`
iterations from `x`: they leave alone the `n + 8` places of `m` that they do not reach. -/
theorem polyMod_add (k n : Nat) (x : Byte) {m : Nat} (hm : m < 2 ^ (n + 8)) :
    polyMod 0x131 (k + n) (x.toNat <<< (k + n) ^^^ m) = polyMod 0x131 n ((crcShifts k x).toNat <<< n ^^^ m) := by
  induction k generalizing x with
  | zero => simp
  | succ k ih =>
    have hreach : m.testBit (k + n + 8) = false :=
      Nat.testBit_lt_two_pow (hm.trans_le (Nat.pow_le_pow_right (by decide) (by omega)))
    have hlead : (x.toNat <<< (k + n + 1) ^^^ m).testBit (k + n + 8) = x.getLsbD 7 := by
      rw [Nat.testBit_xor, hreach, Nat.testBit_shiftLeft, show k + n + 8 - (k + n + 1) = 7 by omega,
        BitVec.testBit_toNat]
      simp
    have hstep : (if x.getLsbD 7 then x.toNat <<< (k + n + 1) ^^^ m ^^^ 0x131 <<< (k + n)
        else x.toNat <<< (k + n + 1) ^^^ m) = (crcShift x).toNat <<< (k + n) ^^^ m := by
      rw [toNat_crcShift, Nat.add_comm (k + n) 1, Nat.shiftLeft_add]
      split
      · rw [Nat.shiftLeft_xor_distrib, Nat.xor_right_comm]
      · rfl
    rw [Nat.add_right_comm, polyMod, hlead, hstep, ih, crcShifts_succ]

/-- The dividend of the polynomial form: the seed meets the first byte, and the second waits eight places below. -/
theorem dividend_eq (d0 d1 : Byte) : (((d0.toNat <<< 8) ||| d1.toNat) <<< 8) ^^^ (0xFF <<< 16) =
    (Config.crcInit ^^^ d0).toNat <<< 16 ^^^ d1.toNat <<< 8 := by
  rw [shiftLeft_or_eq_xor d0.toNat d1.isLt, BitVec.toNat_xor, Nat.shiftLeft_xor_distrib, Nat.shiftLeft_xor_distrib,
    ← Nat.shiftLeft_add, Nat.xor_right_comm, Nat.xor_comm (d0.toNat <<< 16)]
  rfl

/-- The polynomial form: eight steps of the division take in the seed and the first byte, eight more the second. -/
theorem toNat_crc8_eq_crc8Polynomial (d0 d1 : Byte) : (crc8 d0 d1).toNat = crc8Polynomial d0 d1 := by
  have hlow : d1.toNat <<< 8 < 2 ^ (8 + 8) := by
    have := d1.isLt
    rw [Nat.shiftLeft_eq]
    omega
  have hfirst := polyMod_add 8 8 (Config.crcInit ^^^ d0) hlow
  have hsecond := polyMod_add 8 0 (crcByte Config.crcInit d0 ^^^ d1) (m := 0) (by decide)
  rw [← crcByte_eq, ← Nat.shiftLeft_xor_distrib, ← BitVec.toNat_xor] at hfirst
  rw [← crcByte_eq, ← crc8_eq] at hsecond
  rw [crc8Polynomial, dividend_eq, hfirst]
  simpa [polyMod] using hsecond.symm

/-- Settles O20: each form does to a byte what a pass of the loop does (`polyMod_add`, `crcByte_eq_foldl_msbFirst`,
`crcLookup_eq_crcShifts`). -/
theorem checksumFormsAgree : Obligations.ChecksumFormsAgree := fun d0 d1 =>
  ⟨toNat_crc8_eq_crc8Polynomial d0 d1, crc8_eq_crc8BitSerial d0 d1, crc8_eq_crc8ByTable d0 d1⟩

/-- Settles O21: every entry is checked against eight iterations (`crcLookup_eq_crcShifts`). -/
theorem byteTableIsEightIterations : Obligations.ByteTableIsEightIterations :=
  ⟨by decide +kernel, crcLookup_eq_crcShifts, by decide, by decide +kernel, by decide, by decide +kernel⟩

end Sys2Proof.Machine
end

section
/-! SUPPORT. What the answer of `CRC.CHK` says about the word it was given (40_crc8.md R85, R86). -/

namespace Sys2Proof.Machine

theorem crcChkResponse_ok_iff (d0 d1 c : Byte) : (crcChkResponse d0 d1 c).ok = true ↔ crc8 d0 d1 = c := by
  unfold crcChkResponse
  split <;> simp [*]

theorem crcChkResponse_status_ok_iff (d0 d1 c : Byte) :
    (crcChkResponse d0 d1 c).status = .ok ↔ crc8 d0 d1 = c := by
  unfold crcChkResponse
  split <;> simp [*]

theorem WireWord.valid_iff (w : WireWord) : w.valid = true ↔ crc8 w.d0 w.d1 = w.c := beq_iff_eq

/-- Settles O19: the response of `CRC.CHK` compares the checksum with the third byte (`crcChkResponse_ok_iff`,
`crcChkResponse_status_ok_iff`), and `valid` is that comparison. -/
theorem validityIsTheChecksum : Obligations.ValidityIsTheChecksum := fun w s =>
  ⟨_, _, exec_crcChk w.d0 w.d1 w.c s, s.respond_rsp _, crcChkResponse_ok_iff w.d0 w.d1 w.c,
    crcChkResponse_status_ok_iff w.d0 w.d1 w.c, w.valid_iff⟩

end Sys2Proof.Machine
end

section
/-! SUPPORT. The response of `F32.DEC` field by field, its fields in terms of the four bytes (41_f32_decode.md R101) and
the rows of the class table (R103). -/

namespace Sys2Proof.Machine

@[simp] theorem f32Response_sign (w : Word32) : (f32Response w).sign = f32Sign w := by
  unfold f32Response
  split <;> rfl

@[simp] theorem f32Response_exp (w : Word32) : (f32Response w).exp = f32Exp w := by
  unfold f32Response
  split <;> rfl

@[simp] theorem f32Response_frac (w : Word32) : (f32Response w).frac = f32Frac w := by
  unfold f32Response
  split <;> rfl

@[simp] theorem f32Response_cls (w : Word32) : (f32Response w).cls = f32Class (f32Exp w) (f32Frac w) := by
  unfold f32Response
  split <;> rfl

/-- `F32.DEC` answers for the word its bytes spell, first byte most significant, and changes the response alone. -/
theorem exec_f32Dec_append (b0 b1 b2 b3 : Byte) (s : State) :
    exec (.f32Dec b0 b1 b2 b3) s = .next { s with rsp := some (f32Response (b0 ++ b1 ++ b2 ++ b3)) } := by
  rw [exec_f32Dec, word32_eq_append]
  rfl

theorem f32Sign_append (b0 b1 b2 b3 : Byte) : f32Sign (b0 ++ b1 ++ b2 ++ b3) = b0.getLsbD 7 := by
  simp only [f32Sign, BitVec.getLsbD_append]
  rfl

theorem f32Exp_append (b0 b1 b2 b3 : Byte) :
    f32Exp (b0 ++ b1 ++ b2 ++ b3) = b0.extractLsb' 0 7 ++ b1.extractLsb' 7 1 := by
  apply BitVec.eq_of_getLsbD_eq
  intro k hk
  simp only [f32Exp, BitVec.getLsbD_extractLsb', BitVec.getLsbD_append]
  interval_cases k <;> rfl

theorem f32Frac_append (b0 b1 b2 b3 : Byte) :
    f32Frac (b0 ++ b1 ++ b2 ++ b3) = b1.extractLsb' 0 7 ++ b2 ++ b3 := by
  apply BitVec.eq_of_getLsbD_eq
  intro k hk
  simp only [f32Frac, BitVec.getLsbD_extractLsb', BitVec.getLsbD_append]
  interval_cases k <;> rfl

/-- Settles O24: the response carries the fields of its word (`f32Response_sign` and its kind), and those are the slices
of the bytes (`f32Sign_append`, `f32Exp_append`, `f32Frac_append`). -/
theorem floatFieldsOfTheBytes : Obligations.FloatFieldsOfTheBytes := by
  intro b0 b1 b2 b3 s
  refine ⟨_, exec_f32Dec_append b0 b1 b2 b3 s, f32Response_word _, ?_, ?_, ?_, ?_, ?_, ?_⟩
  · rw [f32Response_sign, f32Response_word, f32Sign]
  · rw [f32Response_exp, f32Response_word, f32Exp]
  · rw [f32Response_frac, f32Response_word, f32Frac]
  · rw [f32Response_sign, f32Sign_append]
  · rw [f32Response_exp, f32Exp_append]
  · rw [f32Response_frac, f32Frac_append]

theorem f32Class_zero : f32Class 0 0 = .zero := rfl

theorem f32Class_subnormal {f : BitVec 23} (h : f ≠ 0) : f32Class 0 f = .subnormal := by
  have hf : f.toNat ≠ 0 := fun h0 => h (BitVec.eq_of_toNat_eq h0)
  simp [f32Class, hf]

theorem f32Class_normal {e : BitVec 8} (hpos : 1 ≤ e.toNat) (hmax : e.toNat ≤ 254) (f : BitVec 23) :
    f32Class e f = .normal := by
  rw [f32Class, if_neg (by omega), if_neg (by omega)]

theorem f32Class_infinity : f32Class 255 0 = .infinity := rfl

theorem f32Class_nan {f : BitVec 23} (h : f ≠ 0) : f32Class 255 f = .nan := by
  have hf : f.toNat ≠ 0 := fun h0 => h (BitVec.eq_of_toNat_eq h0)
  simp [f32Class, hf]

theorem FloatClass.code_toNat_le (c : FloatClass) : c.code.toNat ≤ 4 := by
  cases c <;> decide

/-- Settles O26: the class is that of the exponent and the fraction the response shows, row by row of the table
(`f32Class_zero` to `f32Class_nan`). -/
theorem floatClassTable : Obligations.FloatClassTable := by
  intro b0 b1 b2 b3 s
  refine ⟨_, _, exec_f32Dec_append b0 b1 b2 b3 s, rfl, ?_⟩
  simp only [f32Response_exp, f32Response_frac, f32Response_cls]
  refine ⟨fun he hf => ?_, fun he hf => ?_, fun hpos hmax => ?_, fun he hf => ?_, fun he hf => ?_,
    FloatClass.code_toNat_le _⟩
  · rw [he, hf, f32Class_zero]
    exact ⟨rfl, rfl⟩
  · rw [he, f32Class_subnormal hf]
    exact ⟨rfl, rfl⟩
  · rw [f32Class_normal hpos hmax]
    exact ⟨rfl, rfl⟩
  · rw [he, hf, f32Class_infinity]
    exact ⟨rfl, rfl⟩
  · rw [he, f32Class_nan hf]
    exact ⟨rfl, rfl⟩

/-- Settles O33: the sign is reported as it stands in the word (`f32Response_sign`); the two words are evaluated. -/
theorem signOfZeroResults : Obligations.SignOfZeroResults :=
  ⟨f32Response_sign, by decide, by decide, by decide +kernel, by decide, by decide, by decide +kernel⟩

end Sys2Proof.Machine
end

section
/-! SUPPORT. Rounding half to even on rationals (41_f32_decode.md R107) and the integer algorithm that computes it
(R109). -/

namespace Sys2Proof.Machine

/-- The rounded number is nearer than one half, or one half away and even: what R107 says of it, and all that later
proofs need. -/
theorem roundHalfEven_nearest_or_even (x : ℚ) : |(roundHalfEven x : ℚ) - x| < 1 / 2 ∨
    |(roundHalfEven x : ℚ) - x| = 1 / 2 ∧ roundHalfEven x % 2 = 0 := by
  have hfloor := Int.floor_le x
  have hnext := Int.lt_floor_add_one x
  simp only [roundHalfEven]
  split
  next hlow => exact .inl (abs_lt.mpr ⟨by linarith, by linarith⟩)
  next hlow =>
    split
    next hhigh => exact .inl (abs_lt.mpr ⟨by push_cast; linarith, by push_cast; linarith⟩)
    next hhigh =>
      have htie : x - ⌊x⌋ = 1 / 2 := le_antisymm (not_lt.mp hhigh) (not_lt.mp hlow)
      split
      next heven => exact .inr ⟨by rw [abs_sub_comm, htie, abs_of_pos one_half_pos], heven⟩
      next hodd =>
        have hup : ((⌊x⌋ + 1 : ℤ) : ℚ) - x = 1 / 2 := by push_cast; linarith
        exact .inr ⟨by rw [hup, abs_of_pos one_half_pos], by omega⟩

theorem abs_roundHalfEven_sub_le (x : ℚ) : |(roundHalfEven x : ℚ) - x| ≤ 1 / 2 :=
  (roundHalfEven_nearest_or_even x).elim le_of_lt fun h => h.1.le

theorem roundHalfEven_even_of_tie {x : ℚ} (h : |(roundHalfEven x : ℚ) - x| = 1 / 2) : roundHalfEven x % 2 = 0 :=
  (roundHalfEven_nearest_or_even x).elim (fun hlt => absurd h hlt.ne) And.right

theorem roundHalfEven_eq_zero {x : ℚ} (hx : 0 ≤ x) (h : x < 1 / 2) : roundHalfEven x = 0 := by
  have hnear := abs_le.mp (abs_roundHalfEven_sub_le x)
  have hlow : (-1 : ℚ) < roundHalfEven x := by linarith
  have hhigh : (roundHalfEven x : ℚ) < 1 := by linarith
  norm_cast at hlow hhigh
  omega

theorem roundHalfEven_pos {x : ℚ} (h : 1 / 2 < x) : 0 < roundHalfEven x := by
  have hnear := abs_le.mp (abs_roundHalfEven_sub_le x)
  have hpos : (0 : ℚ) < roundHalfEven x := by linarith
  exact_mod_cast hpos

@[simp] theorem roundHalfEven_natCast (n : ℕ) : roundHalfEven (n : ℚ) = n := by
  simp [roundHalfEven]

/-- The comparisons of the remainder with half the divisor are those of the fractional part with one half. -/
theorem roundHalfEven_div_two_pow (n k : ℕ) : roundHalfEven ((n : ℚ) / 2 ^ (k + 1)) = roundShift n (k + 1) := by
  have hpow : (0 : ℚ) < 2 ^ (k + 1) := by positivity
  have hfloor : ⌊(n : ℚ) / 2 ^ (k + 1)⌋ = ((n / 2 ^ (k + 1) : ℕ) : ℤ) := by
    exact_mod_cast Rat.floor_natCast_div_natCast n (2 ^ (k + 1))
  have hfract : (n : ℚ) / 2 ^ (k + 1) - ((n / 2 ^ (k + 1) : ℕ) : ℚ) =
      ((n % 2 ^ (k + 1) : ℕ) : ℚ) / 2 ^ (k + 1) := by
    have hdiv : ((2 ^ (k + 1) * (n / 2 ^ (k + 1)) + n % 2 ^ (k + 1) : ℕ) : ℚ) = n := by rw [Nat.div_add_mod]
    push_cast at hdiv
    field_simp
    linarith
  have hbelow (r : ℕ) : (r : ℚ) / 2 ^ (k + 1) < 1 / 2 ↔ r < 2 ^ k := by
    rw [div_lt_div_iff₀ hpow two_pos, pow_succ, one_mul, mul_lt_mul_iff_left₀ two_pos]
    exact_mod_cast Iff.rfl
  have habove (r : ℕ) : 1 / 2 < (r : ℚ) / 2 ^ (k + 1) ↔ 2 ^ k < r := by
    rw [div_lt_div_iff₀ two_pos hpow, pow_succ, one_mul, mul_lt_mul_iff_left₀ two_pos]
    exact_mod_cast Iff.rfl
  simp only [roundHalfEven, roundShift, hfloor, Int.cast_natCast, hfract, hbelow, habove, Nat.shiftRight_eq_div_pow,
    Nat.add_sub_cancel]
  split_ifs <;> omega

theorem roundShift_le (n k : ℕ) : roundShift n k ≤ n + 1 := by
  have hq : n >>> k ≤ n := Nat.shiftRight_le n k
  simp only [roundShift]
  split <;> omega

end Sys2Proof.Machine
end

section
/-! SUPPORT. The value of a word (41_f32_decode.md R102) as significand and shift, the integer `milli` as the value
rounded (R107, R109) and the field that holds it (R108). -/

namespace Sys2Proof.Machine

theorem f32Finite_iff (w : Word32) : f32Finite w = true ↔ (f32Exp w).toNat ≠ 255 := decide_eq_true_iff

theorem f32Exp_le_of_finite {w : Word32} (h : f32Finite w = true) : (f32Exp w).toNat ≤ 254 := by
  have hlt := (f32Exp w).isLt
  have hne := (f32Finite_iff w).mp h
  omega

theorem f32Sig_lt {f : ℕ} (hf : f < 2 ^ 23) (e : ℕ) : f32Sig e f < 2 ^ 24 := by
  unfold f32Sig
  split <;> omega

theorem f32Magnitude_eq (w : Word32) : f32Magnitude w =
    (f32Sig (f32Exp w).toNat (f32Frac w).toNat : ℚ) * 2 ^ (-f32Shift (f32Exp w).toNat) := by
  simp only [f32Magnitude, f32Sig, f32Shift]
  split
  · rfl
  · rw [neg_sub]

theorem f32Magnitude_nonneg (w : Word32) : 0 ≤ f32Magnitude w := by
  rw [f32Magnitude_eq]
  positivity

theorem abs_f32Value (w : Word32) : |f32Value w| = f32Magnitude w := by
  unfold f32Value
  split
  · rw [abs_neg, abs_of_nonneg (f32Magnitude_nonneg w)]
  · rw [abs_of_nonneg (f32Magnitude_nonneg w)]

/-- Both branches of R109: without a right shift the product is an integer, with one it is a quotient by a power of
two. -/
theorem milliMagnitude_eq_roundHalfEven (e f : ℕ) :
    (milliMagnitude e f : ℤ) = roundHalfEven ((f32Sig e f * 1000 : ℕ) * (2 : ℚ) ^ (-f32Shift e)) := by
  simp only [milliMagnitude]
  generalize f32Sig e f * 1000 = n
  cases f32Shift e with
  | ofNat k =>
    cases k with
    | zero => simp
    | succ k =>
      have hpos : ¬ ((k + 1 : ℕ) : ℤ) ≤ 0 := by omega
      rw [Int.ofNat_eq_natCast, if_neg hpos, Int.toNat_natCast, zpow_neg, zpow_natCast, ← div_eq_mul_inv,
        roundHalfEven_div_two_pow]
  | negSucc k =>
    have hint : (n : ℚ) * 2 ^ (k + 1) = ((n <<< (k + 1) : ℕ) : ℚ) := by
      rw [Nat.shiftLeft_eq]
      push_cast
      rfl
    rw [if_pos (Int.negSucc_le_zero k), Int.neg_negSucc, Int.toNat_natCast, zpow_natCast, hint, roundHalfEven_natCast]

theorem milliMagnitude_of_word (w : Word32) : (milliMagnitude (f32Exp w).toNat (f32Frac w).toNat : ℤ) =
    roundHalfEven (f32Magnitude w * 1000) := by
  rw [milliMagnitude_eq_roundHalfEven, f32Magnitude_eq, Nat.cast_mul, mul_right_comm, Nat.cast_ofNat]

theorem milli_eq (sign : Bool) (e f : ℕ) : milli sign e f = (if sign then -1 else 1) * milliMagnitude e f := by
  cases sign <;> simp [milli]

theorem abs_milli (sign : Bool) (e f : ℕ) : |milli sign e f| = milliMagnitude e f := by
  cases sign <;> simp [milli]

/-- The largest magnitude (R108): without a right shift the exponent decides, with one the product is below `2^34`. -/
theorem milliMagnitude_le {e f : ℕ} (he : e ≤ 254) (hf : f < 2 ^ 23) :
    milliMagnitude e f ≤ (2 ^ 24 - 1) * 1000 * 2 ^ 104 := by
  have hsig := f32Sig_lt hf e
  simp only [milliMagnitude]
  split
  next hshift =>
    have hpow : (-f32Shift e).toNat ≤ 104 := by
      unfold f32Shift
      split <;> omega
    rw [Nat.shiftLeft_eq]
    exact Nat.mul_le_mul (Nat.mul_le_mul_right _ (by omega)) (Nat.pow_le_pow_right two_pos hpow)
  next => exact (roundShift_le _ _).trans (by omega)

theorem milliMagnitude_le_of_finite {w : Word32} (h : f32Finite w = true) :
    milliMagnitude (f32Exp w).toNat (f32Frac w).toNat ≤ (2 ^ 24 - 1) * 1000 * 2 ^ 104 :=
  milliMagnitude_le (f32Exp_le_of_finite h) (f32Frac w).isLt

theorem f32Response_status_of_finite {w : Word32} (h : f32Finite w = true) : (f32Response w).status = .ok := by
  rw [f32Response, if_neg ((f32Finite_iff w).mp h)]

theorem f32Response_milli_of_finite {w : Word32} (h : f32Finite w = true) : (f32Response w).milli =
    BitVec.ofInt 139 (milli (f32Sign w) (f32Exp w).toNat (f32Frac w).toNat) := by
  rw [f32Response, if_neg ((f32Finite_iff w).mp h)]

/-- The 139-bit field read as a signed number is `milli` itself (R108). -/
theorem toInt_milli_f32Response {w : Word32} (h : f32Finite w = true) : (f32Response w).milli.toInt =
    milli (f32Sign w) (f32Exp w).toNat (f32Frac w).toNat := by
  have hbound := milliMagnitude_le_of_finite h
  have habs := abs_le.mp (abs_milli (f32Sign w) (f32Exp w).toNat (f32Frac w).toNat).le
  rw [f32Response_milli_of_finite h]
  exact BitVec.toInt_ofInt_eq_self (by decide) (by omega) (by omega)

theorem abs_toInt_milli_f32Response {w : Word32} (h : f32Finite w = true) :
    |(f32Response w).milli.toInt| = roundHalfEven (f32Magnitude w * 1000) := by
  rw [toInt_milli_f32Response h, abs_milli, milliMagnitude_of_word]

/-- Settles O28: the field holds `milli` (`toInt_milli_f32Response`), which is the value rounded
(`milliMagnitude_of_word`); the rounding is the nearest integer, the even one at a tie (`abs_roundHalfEven_sub_le`,
`roundHalfEven_even_of_tie`). -/
theorem finiteWordsRoundHalfEven : Obligations.FiniteWordsRoundHalfEven := by
  refine ⟨fun b0 b1 b2 b3 s h => ⟨_, exec_f32Dec_append b0 b1 b2 b3 s, f32Response_status_of_finite h, ?_⟩,
    fun x => ⟨abs_roundHalfEven_sub_le x, roundHalfEven_even_of_tie⟩⟩
  rw [toInt_milli_f32Response h, milli_eq, milliMagnitude_of_word, f32Sign_append, abs_f32Value]

/-- Settles O30: the bound of `milliMagnitude_le_of_finite`, which the field has room for (`toInt_milli_f32Response`);
the largest word is evaluated. -/
theorem milliFitsItsField : Obligations.MilliFitsItsField := by
  refine ⟨fun w h => ?_, by decide +kernel, by decide⟩
  have hbound := milliMagnitude_le_of_finite h
  rw [abs_milli]
  exact ⟨by omega, by omega, toInt_milli_f32Response h⟩

end Sys2Proof.Machine
end

section
/-! SUPPORT. Where a magnitude lies with respect to 0.0005 (41_f32_decode.md R111): every magnitude is a multiple of
`2^-149`, and the exponent alone decides except at 116. -/

namespace Sys2Proof.Machine

/-- A magnitude in units of `2^-149`, the least positive one. -/
def f32Units (e f : ℕ) : ℕ := f32Sig e f * 2 ^ (e - 1)

theorem f32Shift_eq (e : ℕ) : f32Shift e = 149 - ((e - 1 : ℕ) : ℤ) := by
  unfold f32Shift
  split <;> omega

theorem f32Magnitude_eq_units (w : Word32) :
    f32Magnitude w = (f32Units (f32Exp w).toNat (f32Frac w).toNat : ℚ) / 2 ^ 149 := by
  rw [f32Magnitude_eq, f32Units, f32Shift_eq, neg_sub, zpow_sub₀ two_ne_zero, zpow_natCast, ← mul_div_assoc]
  push_cast
  rfl

theorem f32Units_lt {e f : ℕ} (he : e ≤ 115) (hf : f < 2 ^ 23) : f32Units e f < 2 ^ 24 * 2 ^ 114 :=
  Nat.mul_lt_mul_of_lt_of_le (f32Sig_lt hf e) (Nat.pow_le_pow_right two_pos (by omega)) (by positivity)

theorem le_f32Units {e : ℕ} (he : 117 ≤ e) (f : ℕ) : 2 ^ 23 * 2 ^ 116 ≤ f32Units e f := by
  have hsig : 2 ^ 23 ≤ f32Sig e f := by
    rw [f32Sig, if_neg (by omega)]
    exact Nat.le_add_right _ _
  exact Nat.mul_le_mul hsig (Nat.pow_le_pow_right two_pos (by omega))

/-- The magnitude is below 0.0005 up to the fraction `0x03126E` of the exponent 116. -/
theorem f32Units_lt_iff {e f : ℕ} (hf : f < 2 ^ 23) :
    f32Units e f * 2000 < 2 ^ 149 ↔ e * 2 ^ 23 + f ≤ 0x3A03126E := by
  obtain he | rfl | he : e ≤ 115 ∨ e = 116 ∨ 117 ≤ e := by omega
  · have hlow := f32Units_lt he hf
    omega
  · have hunits : f32Units 116 f = (2 ^ 23 + f) * 2 ^ 115 := rfl
    omega
  · have hhigh := le_f32Units he f
    omega

theorem f32Magnitude_lt_iff (w : Word32) : f32Magnitude w < 1 / 2000 ↔
    f32Units (f32Exp w).toNat (f32Frac w).toNat * 2000 < 2 ^ 149 := by
  rw [f32Magnitude_eq_units, div_lt_div_iff₀ (by positivity) (by norm_num), one_mul]
  exact_mod_cast Iff.rfl

/-- 0.0005 is no multiple of a power of two: 2000 does not divide `2^149`. -/
theorem f32Magnitude_ne (w : Word32) : f32Magnitude w ≠ 1 / 2000 := by
  rw [f32Magnitude_eq_units, ne_eq, div_eq_div_iff (by positivity) (by norm_num), one_mul]
  generalize f32Units (f32Exp w).toNat (f32Frac w).toNat = n
  norm_cast
  omega

/-- A word of positive sign is its exponent and fraction behind one another. -/
theorem toNat_of_f32Sign {w : Word32} (h : f32Sign w = false) :
    w.toNat = (f32Exp w).toNat * 2 ^ 23 + (f32Frac w).toNat := by
  have hlt : w.toNat < 2 ^ 31 := BitVec.toNat_lt_of_msb_false h
  have hexp : (f32Exp w).toNat = w.toNat / 2 ^ 23 % 2 ^ 8 := by
    rw [f32Exp, BitVec.extractLsb'_toNat, Nat.shiftRight_eq_div_pow]
  have hfrac : (f32Frac w).toNat = w.toNat % 2 ^ 23 := by
    rw [f32Frac, BitVec.extractLsb'_toNat, Nat.shiftRight_zero]
  omega

theorem toInt_milli_eq_zero_iff {w : Word32} (h : f32Finite w = true) :
    (f32Response w).milli.toInt = 0 ↔ f32Magnitude w < 1 / 2000 := by
  rw [← abs_eq_zero, abs_toInt_milli_f32Response h]
  constructor
  · intro hzero
    by_contra hge
    have habove : 1 / 2000 < f32Magnitude w := lt_of_le_of_ne (not_lt.mp hge) (f32Magnitude_ne w).symm
    have hpos := roundHalfEven_pos (x := f32Magnitude w * 1000) (by linarith)
    omega
  · intro hlt
    have hnonneg := f32Magnitude_nonneg w
    exact roundHalfEven_eq_zero (by linarith) (by linarith)

theorem f32Magnitude_lt_of_exp_le {w : Word32} (h : (f32Exp w).toNat ≤ 115) : f32Magnitude w < 2 ^ (-11 : ℤ) := by
  have hunits : (f32Units (f32Exp w).toNat (f32Frac w).toNat : ℚ) < 2 ^ 24 * 2 ^ 114 := by
    exact_mod_cast f32Units_lt h (f32Frac w).isLt
  rw [f32Magnitude_eq_units, div_lt_iff₀ (by positivity)]
  exact hunits.trans_eq (by norm_num)

/-- Settles O31: `milli` is zero exactly below 0.0005 (`toInt_milli_eq_zero_iff`), which no magnitude equals
(`f32Magnitude_ne`); for a positive sign the boundary is a word (`f32Units_lt_iff`, `toNat_of_f32Sign`). -/
theorem smallValuesRoundToZero : Obligations.SmallValuesRoundToZero := by
  refine ⟨fun w h => ?_, fun w h hsign => ?_, by decide +kernel, fun w he => ?_⟩
  · rw [abs_f32Value]
    refine ⟨(toInt_milli_eq_zero_iff h).mpr, fun habove => ?_, f32Magnitude_ne w⟩
    exact Int.one_le_abs fun hzero => habove.not_gt ((toInt_milli_eq_zero_iff h).mp hzero)
  · rw [toInt_milli_eq_zero_iff h, f32Magnitude_lt_iff, f32Units_lt_iff (f32Frac w).isLt, toNat_of_f32Sign hsign]
  · have hlt := f32Magnitude_lt_of_exp_le he
    have hfinite : f32Finite w = true := (f32Finite_iff w).mpr (by omega)
    rw [abs_f32Value]
    exact ⟨hlt, (toInt_milli_eq_zero_iff hfinite).mpr (hlt.trans (by norm_num))⟩

end Sys2Proof.Machine
end

section
/-! SUPPORT. Command sequences on the abstract content `Q` (42_fifo.md R129): the content decides every response and the
content left. -/

namespace Sys2Proof.Machine

/-- What a command leaves stored and what it answers, a word that is no operation among them (30_encoding.md R57). -/
def absCommand (c : Request) (q : List Entry) : List Entry × Response :=
  match decode c.cmd with
  | .ok i => absExec i c.wdata q
  | .error _ => (q, Response.only .illegal)

/-- The responses of a command sequence and what it leaves stored. -/
def absRun : List Request → List Entry → List Response × List Entry
  | [], q => ([], q)
  | c :: cs, q =>
    ((absCommand c q).2 :: (absRun cs (absCommand c q).1).1, (absRun cs (absCommand c q).1).2)

theorem absCommand_ok {c : Request} {i : Instr} (h : decode c.cmd = .ok i) (q : List Entry) :
    absCommand c q = absExec i c.wdata q := by
  simp only [absCommand, h]

theorem absCommand_error {c : Request} {e : Illegal} (h : decode c.cmd = .error e) (q : List Entry) :
    absCommand c q = (q, Response.only .illegal) := by
  simp only [absCommand, h]

@[simp] theorem absCommand_pushCommand (e : Entry) (q : List Entry) :
    absCommand (pushCommand e) q = (absPush e q, absPushResponse q) := absCommand_ok (decode_pushCommand e) q

@[simp] theorem absCommand_popCommand (d : Payload) (q : List Entry) :
    absCommand (popCommand d) q = (q.tail, absPopResponse q) := absCommand_ok (decode_popCommand d) q

/-- At reset nothing is stored (10_state.md R24). -/
@[simp] theorem State.contents_reset : State.reset.contents = [] := rfl

@[simp] theorem absRun_nil (q : List Entry) : absRun [] q = ([], q) := rfl

theorem absRun_cons (c : Request) (cs : List Request) (q : List Entry) : absRun (c :: cs) q =
    ((absCommand c q).2 :: (absRun cs (absCommand c q).1).1, (absRun cs (absCommand c q).1).2) := rfl

/-- A command on the ring does on the content what its abstract form does. -/
theorem execCommand_refines_absCommand (c : Request) (s : State) : ∃ t,
    execCommand c { s with wdata := c.wdata } = .next t ∧
      t.contents = (absCommand c s.contents).1 ∧ t.rsp = some (absCommand c s.contents).2 := by
  cases hd : decode c.cmd with
  | error e =>
    rw [absCommand_error hd]
    exact ⟨_, execCommand_error hd _, rfl, rfl⟩
  | ok i =>
    rw [absCommand_ok hd, execCommand_ok hd]
    exact exec_refines_absExec i { s with wdata := c.wdata }

/-- 42_fifo.md R129 for a command sequence: its responses and what it leaves stored are said by the content before it. -/
theorem runCommands_refines_absRun (cs : List Request) (s : State) : ∃ t,
    runCommands cs s = some ((absRun cs s.contents).1, t) ∧ t.contents = (absRun cs s.contents).2 := by
  induction cs generalizing s with
  | nil => exact ⟨s, rfl, rfl⟩
  | cons c cs ih =>
    obtain ⟨t, ht, hq, hr⟩ := execCommand_refines_absCommand c s
    obtain ⟨u, hu, hqu⟩ := ih t
    rw [hq] at hu hqu
    exact ⟨u, runCommands_cons ht hr hu, hqu⟩

/-- Settles O42: what an operation, and so a command sequence, stores and answers depends on the content alone
(`exec_refines_absExec`, `runCommands_refines_absRun`). -/
theorem ringRefinesItsContents : Obligations.RingRefinesItsContents := by
  refine ⟨exec_refines_absExec, fun cs s s' hq => ?_⟩
  obtain ⟨t, ht, hqt⟩ := runCommands_refines_absRun cs s
  obtain ⟨t', ht', hqt'⟩ := runCommands_refines_absRun cs s'
  rw [← hq] at ht' hqt'
  exact ⟨_, t, t', ht, ht', hqt.trans hqt'.symm⟩

end Sys2Proof.Machine
end

section
/-! SUPPORT. What a command sequence removes from the content, and that the entries are conserved (42_fifo.md R132), first for
each command on the content and then for a sequence on the ring. -/

namespace Sys2Proof.Machine

/-- The entries stored before and those asked for are the entries removed and those stored after, in order; the removed
are those the responses return and as many others as the responses report evicted (42_fifo.md R132). -/
def Conserved (q asked : List Entry) (rs : List Response) (q' : List Entry) : Prop :=
  ∃ removed, q ++ asked = removed ++ q' ∧ (returnedEntries rs).Sublist removed ∧
    removed.length = (returnedEntries rs).length + evictionCount rs

theorem returnedEntries_append (rs rs' : List Response) :
    returnedEntries (rs ++ rs') = returnedEntries rs ++ returnedEntries rs' := by
  simp [returnedEntries]

theorem evictionCount_append (rs rs' : List Response) :
    evictionCount (rs ++ rs') = evictionCount rs + evictionCount rs' := by
  simp [evictionCount]

/-- A response that reports neither a removal nor an eviction, nothing being asked for, goes with an unchanged content. -/
theorem conserved_of_unchanged (q : List Entry) {r : Response} (hgot : r.got = false) (hevicted : r.evicted = false) :
    Conserved q [] [r] q :=
  ⟨[], by simp, by simp [returnedEntries, hgot], by simp [returnedEntries, evictionCount, hgot, hevicted]⟩

theorem Conserved.append {q q' q'' asked asked' : List Entry} {rs rs' : List Response}
    (h : Conserved q asked rs q') (h' : Conserved q' asked' rs' q'') :
    Conserved q (asked ++ asked') (rs ++ rs') q'' := by
  obtain ⟨removed, heq, hsub, hlen⟩ := h
  obtain ⟨removed', heq', hsub', hlen'⟩ := h'
  refine ⟨removed ++ removed', ?_, ?_, ?_⟩
  · rw [← List.append_assoc, heq, List.append_assoc, heq', List.append_assoc]
  · rw [returnedEntries_append]
    exact hsub.append hsub'
  · rw [returnedEntries_append, evictionCount_append, List.length_append, List.length_append]
    omega

/-- A push removes what it evicts, which no response returns. -/
theorem absPush_conserved (e : Entry) (q : List Entry) : Conserved q [e] [absPushResponse q] (absPush e q) := by
  refine ⟨absEvicted q, ?_, List.nil_sublist _, ?_⟩
  · by_cases hfull : q.length = 20
    · simp [absEvicted, absPush, hfull, ← List.append_assoc, ← List.drop_one]
    · simp [absEvicted, absPush, hfull]
  · by_cases hfull : q.length = 20 <;>
      simp [absEvicted, absPushResponse, returnedEntries, evictionCount, Response.zero, hfull]

/-- A pop removes the entry it returns, if anything is stored. -/
theorem absPop_conserved (q : List Entry) : Conserved q [] [absPopResponse q] q.tail := by
  cases q with
  | nil => exact conserved_of_unchanged [] rfl rfl
  | cons e q => exact ⟨[e], List.append_nil _, List.Sublist.refl [e], rfl⟩

theorem absCommand_conserved (c : Request) (q : List Entry) :
    Conserved q (askedEntry c) [(absCommand c q).2] (absCommand c q).1 := by
  unfold askedEntry absCommand
  cases decode c.cmd with
  | error e => exact conserved_of_unchanged q rfl rfl
  | ok i =>
    cases i with
    | crcCalc d0 d1 => exact conserved_of_unchanged q rfl rfl
    | crcChk d0 d1 check =>
      have hfields := crcChkResponse_fields d0 d1 check
      exact conserved_of_unchanged q (congrArg Response.got hfields) (congrArg Response.evicted hfields)
    | f32Dec b0 b1 b2 b3 =>
      have hfields := f32Response_fields (word32 b0 b1 b2 b3)
      exact conserved_of_unchanged q (congrArg Response.got hfields) (congrArg Response.evicted hfields)
    | fifoPush p => exact absPush_conserved ⟨p, c.wdata⟩ q
    | fifoPop => exact absPop_conserved q

theorem absRun_conserved (cs : List Request) (q : List Entry) :
    Conserved q (askedEntries cs) (absRun cs q).1 (absRun cs q).2 := by
  induction cs generalizing q with
  | nil => exact ⟨[], List.append_nil q, List.Sublist.refl [], rfl⟩
  | cons c cs ih => exact (absCommand_conserved c q).append (ih _)

/-- 42_fifo.md R132 on the ring, from every state. -/
theorem runCommands_conserved (cs : List Request) (s : State) :
    ∃ rs t, runCommands cs s = some (rs, t) ∧ Conserved s.contents (askedEntries cs) rs t.contents := by
  obtain ⟨t, ht, hq⟩ := runCommands_refines_absRun cs s
  exact ⟨_, t, ht, hq ▸ absRun_conserved cs s.contents⟩

/-- Settles O47: a command sequence conserves the entries (`runCommands_conserved`); from reset the entries asked for are
those removed and those stored, counted. -/
theorem entriesAreConserved : Obligations.EntriesAreConserved := by
  refine ⟨fun cs s => ?_, fun cs rs t h => ?_⟩
  · obtain ⟨rs, t, ht, removed, hremoved⟩ := runCommands_conserved cs s
    exact ⟨rs, t, removed, ht, hremoved⟩
  · obtain ⟨rs, t, ht, removed, heq, -, hlen⟩ := runCommands_conserved cs State.reset
    cases ht.symm.trans h
    have htotal : (askedEntries cs).length = removed.length + t.count.val := by
      simpa only [State.contents_reset, List.nil_append, List.length_append, State.length_contents] using
        congrArg List.length heq
    omega

end Sys2Proof.Machine
end

section
/-! SUPPORT. Runs of pushes and runs of pops (42_fifo.md R130, R131): the content each leaves, the responses, and where `head`
is afterwards; the outcomes of one pop (R127). -/

namespace Sys2Proof.Machine

/-! ### Pushes alone -/

theorem length_absPush (e : Entry) {q : List Entry} (hq : q.length ≤ 20) :
    (absPush e q).length = min (q.length + 1) 20 := by
  by_cases hfull : q.length = 20
  · simp [absPush, hfull]
  · simp [absPush, hfull]
    omega

/-- Pushes keep the last 20 of the entries stored and pushed (42_fifo.md R131). -/
theorem absRun_pushes_contents (es : List Entry) {q : List Entry} (hq : q.length ≤ 20) :
    (absRun (es.map pushCommand) q).2 = (q ++ es).drop (q.length + es.length - 20) := by
  induction es generalizing q with
  | nil => simp [Nat.sub_eq_zero_of_le hq]
  | cons e es ih =>
    have hlen := length_absPush e hq
    rw [List.map_cons, absRun_cons, absCommand_pushCommand, ih (q := absPush e q) (by omega), hlen,
      List.length_cons]
    by_cases hfull : q.length = 20
    · have htail : absPush e q ++ es = (q ++ e :: es).drop 1 := by
        rw [absPush, if_pos hfull, List.drop_append_of_le_length (by omega), List.drop_one, List.append_assoc]
        rfl
      rw [htail, List.drop_drop]
      congr 1
      omega
    · have happend : absPush e q ++ es = q ++ e :: es := by
        rw [absPush, if_neg hfull, List.append_assoc]
        rfl
      rw [happend]
      congr 1
      omega

/-- A push reports an eviction when 20 entries or more were stored and pushed before it. -/
theorem absRun_pushes_evicted (es : List Entry) {q : List Entry} (hq : q.length ≤ 20) :
    (absRun (es.map pushCommand) q).1.map (fun r => r.evicted) =
      (List.range es.length).map (fun k => decide (20 ≤ q.length + k)) := by
  induction es generalizing q with
  | nil => rfl
  | cons e es ih =>
    have hlen := length_absPush e hq
    rw [List.map_cons, absRun_cons, absCommand_pushCommand, List.map_cons, ih (q := absPush e q) (by omega),
      List.length_cons, List.range_succ_eq_map, List.map_cons, List.map_map]
    congr 1
    · exact decide_eq_decide.mpr (by omega)
    · exact List.map_congr_left fun k _ => decide_eq_decide.mpr (by rw [hlen]; omega)

/-- A push into a full unit reports the eviction and leaves the ring with its entry in the oldest one's place. -/
theorem execCommand_pushCommand_full (e : Entry) {s : State} (hfull : s.count.val = 20) : ∃ t,
    execCommand (pushCommand e) { s with wdata := e.data } = .next t ∧ t.rsp = some (pushResponse true) ∧
      t.SameRing (s.replaceOldest e) :=
  ⟨_, (execCommand_pushCommand e _).trans (execFifoPush_full e.present hfull), rfl, rfl, rfl, rfl⟩

/-- Pushes move `head` on once for each eviction. -/
theorem runCommands_pushes_head (es : List Entry) (s : State) : ∃ rs t,
    runCommands (es.map pushCommand) s = some (rs, t) ∧
      t.head.val = (s.head.val + (s.count.val + es.length - 20)) % 20 := by
  induction es generalizing s with
  | nil => exact ⟨[], s, rfl, by rw [List.length_nil]; omega⟩
  | cons e es ih =>
    by_cases hfull : s.count.val = 20
    · obtain ⟨t, ht, hr, hring⟩ := execCommand_pushCommand_full e hfull
      obtain ⟨rs, u, hu, hhead⟩ := ih t
      refine ⟨_, u, runCommands_cons ht hr hu, ?_⟩
      rw [hhead, hring.head, hring.count, State.replaceOldest_head, State.replaceOldest_count, nextIndex_val,
        List.length_cons]
      omega
    · obtain ⟨t, ht, hr, hring⟩ := execCommand_pushCommand_room e hfull
      obtain ⟨rs, u, hu, hhead⟩ := ih t
      refine ⟨_, u, runCommands_cons ht hr hu, ?_⟩
      rw [hhead, hring.head, hring.count, State.appendNewest_head, State.appendNewest_count,
        incCount_val (by omega), List.length_cons]
      omega

/-- What pushes from reset leave: the last 20 entries, the evictions reported from the 21st on, and `head`. -/
theorem runCommands_pushes_from_reset (es : List Entry) : ∃ rs t,
    runCommands (es.map pushCommand) State.reset = some (rs, t) ∧ t.contents = es.drop (es.length - 20) ∧
      rs.map (fun r => r.evicted) = (List.range es.length).map (fun k => decide (20 ≤ k)) ∧
      t.head.val = (es.length - 20) % 20 := by
  obtain ⟨t, ht, hq⟩ := runCommands_refines_absRun (es.map pushCommand) State.reset
  obtain ⟨rs, v, hv, hhead⟩ := runCommands_pushes_head es State.reset
  cases hv.symm.trans ht
  have hcontents := absRun_pushes_contents es (q := []) (Nat.zero_le 20)
  have hevicted := absRun_pushes_evicted es (q := []) (Nat.zero_le 20)
  simp only [List.length_nil, Nat.zero_add] at hcontents hevicted
  refine ⟨_, t, ht, hq.trans hcontents, hevicted, ?_⟩
  simpa [State.reset] using hhead

/-! ### Pops alone -/

/-- As many pops as entries are stored return them all in order and leave nothing. -/
theorem absRun_pops (d : Payload) (q : List Entry) :
    absRun (List.replicate q.length (popCommand d)) q = (q.map popResponse, []) := by
  induction q with
  | nil => rfl
  | cons e q ih =>
    rw [List.length_cons, List.replicate_succ, absRun_cons, absCommand_popCommand, List.tail_cons, ih]
    rfl

/-- The same on the ring. -/
theorem runCommands_pops (d : Payload) (s : State) : ∃ t,
    runCommands (List.replicate s.count.val (popCommand d)) s = some (s.contents.map popResponse, t) ∧
      t.contents = [] := by
  obtain ⟨t, ht, hq⟩ := runCommands_refines_absRun (List.replicate s.contents.length (popCommand d)) s
  rw [absRun_pops] at ht hq
  exact ⟨t, s.length_contents ▸ ht, hq⟩

/-- A pop with nothing stored answers `EMPTY`. -/
theorem runCommands_pop_empty (d : Payload) {s : State} (hs : s.contents = []) : ∃ t,
    runCommands [popCommand d] s = some ([Response.only .empty], t) := by
  obtain ⟨t, ht, -⟩ := runCommands_refines_absRun [popCommand d] s
  rw [hs, absRun_cons, absCommand_popCommand] at ht
  exact ⟨t, ht⟩

/-- No more pops than entries are stored move `head` on by one each. -/
theorem runCommands_pops_head (d : Payload) {n : Nat} {s : State} (hn : n ≤ s.count.val) : ∃ rs t,
    runCommands (List.replicate n (popCommand d)) s = some (rs, t) ∧ t.head = slotIndex s.head n := by
  induction n generalizing s with
  | zero => exact ⟨[], s, rfl, Fin.ext (by rw [slotIndex_val]; omega)⟩
  | succ n ih =>
    obtain ⟨t, ht, hr, hring⟩ := execCommand_popCommand_stored d (s := s) (by omega)
    have hcount : n ≤ t.count.val := by rw [hring.count, State.removeOldest_count, decCount_val]; omega
    obtain ⟨rs, u, hu, hhead⟩ := ih hcount
    refine ⟨_, u, runCommands_cons ht hr hu, ?_⟩
    rw [hhead, hring.head, State.removeOldest_head, slotIndex_nextIndex]

/-! ### The statements on runs and outcomes -/

/-- With `head` 1 and 20 entries stored, slot 0 holds the newest. -/
theorem State.readSlot_zero_eq_getLast? {s : State} (hhead : s.head = 1) (hcount : s.count.val = 20) :
    some (s.readSlot 0) = s.contents.getLast? := by
  have hlen : s.contents.length = 20 := s.length_contents.trans hcount
  rw [List.getLast?_eq_getElem?, hlen, List.getElem?_eq_getElem (by omega), State.getElem_contents, hhead]
  rfl

/-- Settles O48: what pushes from reset leave (`runCommands_pushes_from_reset`), for any number of them and for 21, and
what pops then return (`runCommands_pops`, `runCommands_pop_empty`). -/
theorem pushesKeepTheLastTwenty : Obligations.PushesKeepTheLastTwenty := by
  refine ⟨fun es => ?_, fun e₁ es d hlen => ?_⟩
  · obtain ⟨rs, t, ht, hq, hevicted, -⟩ := runCommands_pushes_from_reset es
    have hdropped : es.length - min es.length 20 = es.length - 20 := by omega
    exact ⟨rs, t, ht, hdropped ▸ hq, hevicted⟩
  · obtain ⟨rs, t, ht, hq, -, hhead⟩ := runCommands_pushes_from_reset (e₁ :: es)
    rw [List.length_cons, hlen] at hq hhead
    have hcontents : t.contents = es := hq
    have hcount : t.count.val = 20 := by rw [← t.length_contents, hcontents, hlen]
    have hheadOne : t.head = 1 := Fin.ext hhead
    have hnewest : some (t.readSlot 0) = es.getLast? := hcontents ▸ State.readSlot_zero_eq_getLast? hheadOne hcount
    obtain ⟨t', ht', hq'⟩ := runCommands_pops d t
    obtain ⟨u, hu⟩ := runCommands_pop_empty d hq'
    rw [hcount, hcontents] at ht'
    exact ⟨rs, t, _, t', _, u, ht, hcontents, hheadOne, hcount, hnewest, ht', rfl, hu, rfl, rfl⟩

/-- Settles O49: the place is computed modulo 20 (`slotIndex_val`), and so for the slot a push writes
(`State.readSlot_appendNewest`) and for `head` after three pops (`runCommands_pops_head`). -/
theorem indicesWrapAtTwenty : Obligations.IndicesWrapAtTwenty := by
  refine ⟨rfl, fun h n hlt => ?_, fun e d s hhead hcount => ⟨?_, ?_, ?_⟩⟩
  · rw [slotIndex_val]
    split <;> omega
  · rw [State.contents, hhead, hcount]
    rfl
  · have hroom : s.count.val ≠ 20 := by rw [hcount]; decide
    have hread (j : Fin 20) : (s.appendNewest e).readSlot j = if j = 1 then e else s.readSlot j := by
      rw [State.readSlot_appendNewest, hhead, hcount]
      rfl
    exact ⟨_, execFifoPush_room e.present hroom, (hread 1).trans (if_pos rfl),
      fun j hj => (hread j).trans (if_neg hj)⟩
  · obtain ⟨rs, t, ht, hheadAfter⟩ := runCommands_pops_head d (n := 3) (s := s) (by rw [hcount]; decide)
    exact ⟨rs, t, ht, by rw [hheadAfter, hhead]; rfl⟩

/-- Settles O50: a pop answers what the content gives (`exec_refines_absExec`): a record, a placeholder or nothing. -/
theorem consumerSeesRecordOrEmpty : Obligations.ConsumerSeesRecordOrEmpty := by
  intro s
  obtain ⟨t, ht, hq, hr⟩ := exec_refines_absExec .fifoPop s
  refine ⟨fun d q hs => ?_, fun d q hs => ?_, fun hs => ?_⟩ <;> rw [hs] at hq hr <;>
    exact ⟨t, _, ht, hr, rfl, rfl, rfl, rfl, hq⟩

end Sys2Proof.Machine
end

section
/-! SUPPORT. A command word as its argument and its operation code, for the encoder (30_encoding.md R52, R65): what decodes to
an operation is the word with that operation's two parts, in both directions. -/

namespace Sys2Proof

open Sys2Proof.Machine

/-! ### The bytes of an argument -/

/-- Each byte of an assembled word stands in its place. -/
theorem bytes_word32 (b0 b1 b2 b3 : Byte) :
    (word32 b0 b1 b2 b3).extractLsb' 24 8 = b0 ∧ (word32 b0 b1 b2 b3).extractLsb' 16 8 = b1 ∧
      (word32 b0 b1 b2 b3).extractLsb' 8 8 = b2 ∧ (word32 b0 b1 b2 b3).extractLsb' 0 8 = b3 := by
  refine ⟨?_, ?_, ?_, ?_⟩ <;>
  · apply BitVec.eq_of_getLsbD_eq
    intro k hk
    rw [BitVec.getLsbD_extractLsb', getLsbD_word32]
    interval_cases k <;> rfl

/-- The two high bytes are zero together exactly when the sixteen bits are. -/
theorem extractLsb'_high_eq_zero_iff (x : Word32) :
    x.extractLsb' 16 16 = 0 ↔ x.extractLsb' 24 8 = 0 ∧ x.extractLsb' 16 8 = 0 := by
  have happend : x.extractLsb' 24 8 ++ x.extractLsb' 16 8 = x.extractLsb' 16 16 :=
    BitVec.extractLsb'_append_extractLsb'_eq_extractLsb' rfl
  constructor
  · intro h
    rw [h] at happend
    have hhigh := congrArg (BitVec.extractLsb' 8 8) happend
    have hlow := congrArg (BitVec.extractLsb' 0 8) happend
    rw [BitVec.extractLsb'_append_eq_left] at hhigh
    rw [BitVec.extractLsb'_append_eq_right] at hlow
    exact ⟨hhigh, hlow⟩
  · rintro ⟨hhigh, hlow⟩
    rw [← happend, hhigh, hlow]
    rfl

/-- With all other bits zero the argument is its lowest bit. -/
theorem eq_setWidth_of_extractLsb'_eq_zero {x : Word32} (h : x.extractLsb' 1 31 = 0) :
    x = (BitVec.ofBool (x.getLsbD 0)).setWidth 32 := by
  apply BitVec.eq_of_getLsbD_eq
  intro k hk
  cases k with
  | zero => simp
  | succ k =>
    have hbit : x.getLsbD (k + 1) = (x.extractLsb' 1 31).getLsbD k := by
      rw [BitVec.getLsbD_extractLsb', decide_eq_true (by omega), Bool.true_and, Nat.add_comm]
    rw [hbit, h]
    simp

/-! ### The two parts of an operation's word -/

/-- `op` of the operation (30_encoding.md R56). -/
def Instr.opcode : Instr → BitVec 4
  | .crcCalc _ _ => 1
  | .crcChk _ _ _ => 2
  | .f32Dec _ _ _ _ => 3
  | .fifoPush _ => 4
  | .fifoPop => 5

/-- `arg` of the operation, by its format (30_encoding.md R52). -/
def Instr.argument : Instr → Word32
  | .crcCalc d0 d1 => word32 0 0 d0 d1
  | .crcChk d0 d1 c => word32 0 d0 d1 c
  | .f32Dec b0 b1 b2 b3 => word32 b0 b1 b2 b3
  | .fifoPush present => (BitVec.ofBool present).setWidth 32
  | .fifoPop => 0

@[simp] theorem opOf_append (arg : Word32) (op : BitVec 4) : opOf (arg ++ op) = op :=
  BitVec.extractLsb'_append_eq_right

@[simp] theorem argOf_append (arg : Word32) (op : BitVec 4) : argOf (arg ++ op) = arg :=
  BitVec.extractLsb'_append_eq_left

theorem argOf_append_opOf (w : CmdWord) : argOf w ++ opOf w = w :=
  (BitVec.extractLsb'_append_extractLsb'_eq_extractLsb' rfl).trans BitVec.extractLsb'_eq_self

theorem word32_append_eq_or (b0 b1 b2 b3 : Byte) (op : BitVec 4) : word32 b0 b1 b2 b3 ++ op =
    (b0.setWidth 36 <<< 28) ||| (b1.setWidth 36 <<< 20) ||| (b2.setWidth 36 <<< 12) |||
      (b3.setWidth 36 <<< 4) ||| op.setWidth 36 := by
  apply BitVec.eq_of_getLsbD_eq
  intro k hk
  rw [BitVec.getLsbD_append, getLsbD_word32]
  interval_cases k <;> simp

theorem encode_eq_append (i : Instr) : encode i = i.argument ++ i.opcode := by
  cases i with
  | crcCalc d0 d1 => simp [encode, Instr.argument, Instr.opcode, word32_append_eq_or]
  | crcChk d0 d1 c => simp [encode, Instr.argument, Instr.opcode, word32_append_eq_or]
  | f32Dec b0 b1 b2 b3 => simp [encode, Instr.argument, Instr.opcode, word32_append_eq_or]
  | fifoPush p => cases p <;> decide
  | fifoPop => decide

/-! ### The decoder against the encoder -/

theorem opOf_cases (w : CmdWord) : opOf w = 1 ∨ opOf w = 2 ∨ opOf w = 3 ∨ opOf w = 4 ∨ opOf w = 5 ∨
    ((opOf w).toNat = 0 ∨ 6 ≤ (opOf w).toNat) := by
  generalize opOf w = op
  revert op
  decide

/-- A word of the operation's two parts decodes to it: each reserved bit is zero and each operand stands in its place. -/
theorem decode_of_parts {w : CmdWord} {i : Instr} (hop : opOf w = i.opcode) (harg : argOf w = i.argument) :
    decode w = .ok i := by
  cases i with
  | crcCalc d0 d1 =>
    obtain ⟨hbyte3, hbyte2, hbyte1, hbyte0⟩ := bytes_word32 0 0 d0 d1
    have hzero : (word32 0 0 d0 d1).extractLsb' 16 16 = 0 := (extractLsb'_high_eq_zero_iff _).mpr ⟨hbyte3, hbyte2⟩
    rw [decode_op_one hop, argByte1, argByte0, harg, Instr.argument, if_pos hzero, hbyte1, hbyte0]
  | crcChk d0 d1 c =>
    obtain ⟨hzero, hbyte2, hbyte1, hbyte0⟩ := bytes_word32 0 d0 d1 c
    rw [decode_op_two hop, argByte2, argByte1, argByte0, harg, Instr.argument, if_pos hzero, hbyte2, hbyte1, hbyte0]
  | f32Dec b0 b1 b2 b3 =>
    obtain ⟨hbyte3, hbyte2, hbyte1, hbyte0⟩ := bytes_word32 b0 b1 b2 b3
    rw [decode_op_three hop, argByte3, argByte2, argByte1, argByte0, harg, Instr.argument, hbyte3, hbyte2, hbyte1,
      hbyte0]
  | fifoPush p =>
    rw [decode_op_four hop, argPresent, harg, Instr.argument]
    cases p <;> rfl
  | fifoPop =>
    have hzero : argOf w = 0 := harg
    rw [decode_op_five hop, if_pos hzero]

/-- What decodes to an operation has its two parts. -/
theorem parts_of_decode {w : CmdWord} {i : Instr} (h : decode w = .ok i) :
    opOf w = i.opcode ∧ argOf w = i.argument := by
  have hbytes := (word32_argBytes w).symm
  obtain hop | hop | hop | hop | hop | hop := opOf_cases w
  · rw [decode_op_one hop] at h
    split at h
    next hzero =>
      obtain ⟨hbyte3, hbyte2⟩ := (extractLsb'_high_eq_zero_iff _).mp hzero
      cases h
      rw [argByte3, argByte2, hbyte3, hbyte2] at hbytes
      exact ⟨hop, hbytes⟩
    next => cases h
  · rw [decode_op_two hop] at h
    split at h
    next hzero =>
      cases h
      rw [argByte3, hzero] at hbytes
      exact ⟨hop, hbytes⟩
    next => cases h
  · rw [decode_op_three hop] at h
    cases h
    exact ⟨hop, hbytes⟩
  · rw [decode_op_four hop] at h
    split at h
    next hzero =>
      cases h
      exact ⟨hop, eq_setWidth_of_extractLsb'_eq_zero hzero⟩
    next => cases h
  · rw [decode_op_five hop] at h
    split at h
    next hzero =>
      cases h
      exact ⟨hop, hzero⟩
    next => cases h
  · rw [decode_op_reserved hop] at h
    cases h

/-- Settles O3: the encoding consists of the two parts (`encode_eq_append`), which decode to the operation
(`decode_of_parts`). -/
theorem decodeOfEncode : Obligations.DecodeOfEncode := by
  intro i
  have hparts := encode_eq_append i
  exact decode_of_parts (by rw [hparts, opOf_append]) (by rw [hparts, argOf_append])

/-- Settles O4: the word has the operation's two parts (`parts_of_decode`), which are all of it (`argOf_append_opOf`). -/
theorem encodeOfDecode : Obligations.EncodeOfDecode := by
  intro w i h
  obtain ⟨hop, harg⟩ := parts_of_decode h
  rw [encode_eq_append, ← hop, ← harg, argOf_append_opOf]

/-- Settles O1: each word is evaluated. -/
theorem writtenOutWordsDecode : Obligations.WrittenOutWordsDecode := by
  unfold Obligations.WrittenOutWordsDecode
  decide

/-! ### The opcode map -/

theorem mem_opcodeTable_iff {r : OpRow} : r ∈ opcodeTable ↔ ∃ i, rowOf i = r := by
  constructor
  · intro h
    obtain ⟨i, -, hi⟩ : ∃ i ∈ [Instr.crcCalc 0 0, .crcChk 0 0 0, .f32Dec 0 0 0 0, .fifoPush false, .fifoPop],
        rowOf i = r := List.mem_map.mp h
    exact ⟨i, hi⟩
  · rintro ⟨i, rfl⟩
    cases i <;> simp [opcodeTable, rowOf]

/-- Where an operation's row has a mask of ones, a word that selects the row has the bits of the pattern. -/
theorem extractLsb'_of_selects {w : CmdWord} {i : Instr} {start len : Nat} {v : BitVec len}
    (h : (rowOf i).selects w = true) (hmask : (rowOf i).mask.extractLsb' start len = BitVec.allOnes len)
    (hpattern : (rowOf i).pattern.extractLsb' start len = v) : w.extractLsb' start len = v := by
  have hbits := congrArg (BitVec.extractLsb' start len) (beq_iff_eq.mp h)
  rwa [BitVec.extractLsb'_and, hmask, BitVec.and_allOnes, hpattern] at hbits

/-- Every row's mask covers the operation code (30_encoding.md R56). -/
theorem opOf_of_selects {w : CmdWord} {i : Instr} (h : (rowOf i).selects w = true) : opOf w = i.opcode :=
  extractLsb'_of_selects h (by cases i <;> simp only [rowOf] <;> decide)
    (by cases i <;> simp only [rowOf, Instr.opcode] <;> decide)

/-- A word that selects an operation's row decodes to an operation of that row. -/
theorem exists_decode_of_selects {w : CmdWord} {i : Instr} (h : (rowOf i).selects w = true) :
    ∃ j, decode w = .ok j ∧ rowOf j = rowOf i := by
  have hop := opOf_of_selects h
  cases i with
  | crcCalc d0 d1 =>
    have hzero : w.extractLsb' 20 16 = 0 :=
      extractLsb'_of_selects h (by simp only [rowOf]; decide) (by simp only [rowOf]; decide)
    rw [decode_op_one hop, extractLsb'_argOf w (by decide), if_pos hzero]
    exact ⟨_, rfl, rfl⟩
  | crcChk d0 d1 c =>
    have hzero : w.extractLsb' 28 8 = 0 :=
      extractLsb'_of_selects h (by simp only [rowOf]; decide) (by simp only [rowOf]; decide)
    rw [decode_op_two hop, extractLsb'_argOf w (by decide), if_pos hzero]
    exact ⟨_, rfl, rfl⟩
  | f32Dec b0 b1 b2 b3 => exact ⟨_, decode_op_three hop, rfl⟩
  | fifoPush p =>
    have hzero : w.extractLsb' 5 31 = 0 :=
      extractLsb'_of_selects h (by simp only [rowOf]; decide) (by simp only [rowOf]; decide)
    rw [decode_op_four hop, extractLsb'_argOf w (by decide), if_pos hzero]
    exact ⟨_, rfl, rfl⟩
  | fifoPop =>
    have hzero : argOf w = 0 :=
      extractLsb'_of_selects h (by simp only [rowOf]; decide) (by simp only [rowOf]; decide)
    rw [decode_op_five hop, if_pos hzero]
    exact ⟨_, rfl, rfl⟩

theorem encode_selects_rowOf (i : Instr) : (rowOf i).selects (encode i) = true := by
  cases i with
  | crcCalc d0 d1 => exact Laws.SelectsOwnRow.crcCalc d0 d1
  | crcChk d0 d1 c => exact Laws.SelectsOwnRow.crcChk d0 d1 c
  | f32Dec b0 b1 b2 b3 => exact Laws.SelectsOwnRow.f32Dec b0 b1 b2 b3
  | fifoPush p => exact Laws.SelectsOwnRow.fifoPush p
  | fifoPop => exact Laws.SelectsOwnRow.fifoPop

theorem selects_iff_decode {w : CmdWord} {r : OpRow} (hr : r ∈ opcodeTable) :
    r.selects w = true ↔ ∃ i, decode w = .ok i ∧ rowOf i = r := by
  constructor
  · intro h
    obtain ⟨i, rfl⟩ := mem_opcodeTable_iff.mp hr
    exact exists_decode_of_selects h
  · rintro ⟨i, hi, rfl⟩
    exact encodeOfDecode w i hi ▸ encode_selects_rowOf i

/-- A decoder's arm that tests a condition reads an operation exactly where the condition holds. -/
theorem exists_ite_ok_iff {p : Prop} [Decidable p] {i : Instr} {e : Illegal} :
    (∃ j, (if p then Except.ok i else Except.error e) = Except.ok j) ↔ p := by
  split <;> simp [*]

/-- The legal words are those that decode (30_encoding.md R57, R58, R62). -/
theorem legalWord_iff_decode (w : CmdWord) : legalWord w = true ↔ ∃ i, decode w = .ok i := by
  obtain hop | hop | hop | hop | hop | hop := opOf_cases w
  · simp [decode_op_one hop, exists_ite_ok_iff, legalWord, opAssigned, reservedBitsZero, hop]
  · simp [decode_op_two hop, exists_ite_ok_iff, legalWord, opAssigned, reservedBitsZero, hop]
  · simp [decode_op_three hop, legalWord, opAssigned, reservedBitsZero, hop]
  · simp [decode_op_four hop, exists_ite_ok_iff, legalWord, opAssigned, reservedBitsZero, hop]
  · simp [decode_op_five hop, exists_ite_ok_iff, legalWord, opAssigned, reservedBitsZero, hop]
  · have hassigned : opAssigned (opOf w) = false := decide_eq_false (by omega)
    simp [decode_op_reserved hop, legalWord, hassigned]

/-- Settles O2: a row is selected by what decodes to its operations (`selects_iff_decode`), a word decodes to one operation
at most, and the legal words are those that decode (`legalWord_iff_decode`). -/
theorem opcodeMapSelectsWhatDecodes : Obligations.OpcodeMapSelectsWhatDecodes := by
  refine ⟨fun w r hr => selects_iff_decode hr, fun w r₁ hr₁ r₂ hr₂ h₁ h₂ => ?_, fun w => ?_⟩
  · obtain ⟨i, hi, rfl⟩ := (selects_iff_decode hr₁).mp h₁
    obtain ⟨j, hj, rfl⟩ := (selects_iff_decode hr₂).mp h₂
    cases hi.symm.trans hj
    rfl
  · rw [legalWord_iff_decode]
    constructor
    · rintro ⟨i, hi⟩
      have hr : rowOf i ∈ opcodeTable := mem_opcodeTable_iff.mpr ⟨i, rfl⟩
      exact ⟨rowOf i, hr, (selects_iff_decode hr).mpr ⟨i, hi, rfl⟩⟩
    · rintro ⟨r, hr, h⟩
      obtain ⟨i, hi, -⟩ := (selects_iff_decode hr).mp h
      exact ⟨i, hi⟩

end Sys2Proof
end

section
/-! SUPPORT. The assembler (30_encoding.md R65, R66): a line in range is the encoding of its operation, a line out of range is
refused. -/

namespace Sys2Proof

@[simp] theorem fitsBits_eq_true {bits v : Nat} : fitsBits bits v = true ↔ v < 2 ^ bits := decide_eq_true_iff

@[simp] theorem fitsBits_toNat {n : Nat} (x : BitVec n) : fitsBits n x.toNat = true := fitsBits_eq_true.mpr x.isLt

theorem assemble_of_wf {l : AsmLine} (h : l.wf = true) :
    assemble l = some (BitVec.ofNat 36 l.expand.cmdNat, BitVec.ofNat Config.recW l.expand.wdataNat) := if_pos h

theorem assemble_of_not_wf {l : AsmLine} (h : ¬ l.wf = true) : assemble l = none := if_neg h

/-- A byte shifted in the formulas of R65 is the byte shifted in the command word. -/
theorem ofNat_shiftLeft_toNat {m n : Nat} (x : BitVec m) (k : Nat) :
    BitVec.ofNat n (x.toNat <<< k) = x.setWidth n <<< k := by
  apply BitVec.eq_of_toNat_eq
  simp [Nat.shiftLeft_eq, Nat.mod_mul_mod]

theorem assemble_crcCalc (d0 d1 : Byte) :
    assemble (.crcCalc d0.toNat d1.toNat) = some (encode (.crcCalc d0 d1), 0) := by
  rw [assemble_of_wf (by simp [AsmLine.wf])]
  simp [AsmLine.expand, AsmLine.cmdNat, AsmLine.wdataNat, encode, BitVec.ofNat_or, ofNat_shiftLeft_toNat]

theorem assemble_crcChk (d0 d1 c : Byte) :
    assemble (.crcChk d0.toNat d1.toNat c.toNat) = some (encode (.crcChk d0 d1 c), 0) := by
  rw [assemble_of_wf (by simp [AsmLine.wf])]
  simp [AsmLine.expand, AsmLine.cmdNat, AsmLine.wdataNat, encode, BitVec.ofNat_or, ofNat_shiftLeft_toNat]

theorem assemble_f32Dec (b0 b1 b2 b3 : Byte) :
    assemble (.f32Dec b0.toNat b1.toNat b2.toNat b3.toNat) = some (encode (.f32Dec b0 b1 b2 b3), 0) := by
  rw [assemble_of_wf (by simp [AsmLine.wf])]
  simp [AsmLine.expand, AsmLine.cmdNat, AsmLine.wdataNat, encode, BitVec.ofNat_or, ofNat_shiftLeft_toNat]

theorem assemble_fifoPush (p : Bool) (d : Payload) :
    assemble (.fifoPush p.toNat d.toNat) = some (encode (.fifoPush p), d) := by
  have hp : p.toNat < 2 := p.toNat_lt
  rw [assemble_of_wf (by simp [AsmLine.wf, hp])]
  cases p <;> simp [AsmLine.expand, AsmLine.cmdNat, AsmLine.wdataNat, encode]

/-- `F32.DECW` expands to the four bytes of its word (30_encoding.md R66). -/
theorem expand_f32DecW (w : Word32) : (AsmLine.f32DecW w.toNat).expand =
    .f32Dec (w.extractLsb' 24 8).toNat (w.extractLsb' 16 8).toNat (w.extractLsb' 8 8).toNat
      (w.extractLsb' 0 8).toNat := by
  simp [AsmLine.expand, BitVec.extractLsb'_toNat]

theorem assemble_f32DecW (w : Word32) : assemble (.f32DecW w.toNat) =
    some (encode (.f32Dec (w.extractLsb' 24 8) (w.extractLsb' 16 8) (w.extractLsb' 8 8) (w.extractLsb' 0 8)), 0) := by
  rw [← assemble_f32Dec, assemble_of_wf (by simp [AsmLine.wf]), expand_f32DecW,
    assemble_of_wf (by simp only [AsmLine.wf, fitsBits_toNat, Bool.and_self])]
  rfl

theorem assemble_fifoPushR (d : Payload) : assemble (.fifoPushR d.toNat) = some (encode (.fifoPush true), d) := by
  rw [← assemble_fifoPush true d, assemble_of_wf (by simp [AsmLine.wf]),
    assemble_of_wf (by simp [AsmLine.wf])]
  rfl

theorem assemble_fifoPop : assemble .fifoPop = some (encode .fifoPop, 0) := rfl

theorem assemble_fifoPushE : assemble .fifoPushE = some (encode (.fifoPush false), 0) := rfl

/-- Settles O5: the eight lines in range one by one; out of range the check of the operands fails (`assemble_of_not_wf`). -/
theorem assemblerLinesEncode : Obligations.AssemblerLinesEncode := by
  refine ⟨assemble_crcCalc, assemble_crcChk, assemble_f32Dec, assemble_fifoPush, assemble_fifoPop, assemble_f32DecW,
    assemble_fifoPushR, assemble_fifoPushE, fun d0 d1 h => ?_, fun d0 d1 c h => ?_, fun b0 b1 b2 b3 h => ?_,
    fun p d h => ?_, fun w h => ?_, fun d h => ?_⟩ <;>
  · apply assemble_of_not_wf
    simp [AsmLine.wf]
    omega

end Sys2Proof
end

section
/-! SUPPORT. What every operation leaves alone (20_memory.md R34), the turn by whose it is (R38), and the step on the abstract
content: one lemma that says what stands in the state and on the port after it. -/

namespace Sys2Proof.Machine

/-! ### The agents' side -/

/-- The two states have the same sampled `wdata`, the same commands to come and the same turns: all that is neither the
ring nor the response. -/
structure State.SameAgents (s t : State) : Prop where
  wdata : s.wdata = t.wdata
  producer : s.producer = t.producer
  consumer : s.consumer = t.consumer
  sched : s.sched = t.sched

theorem exec_sameAgents {i : Instr} {s t : State} (h : exec i s = .next t) : t.SameAgents s := by
  cases i with
  | crcCalc d0 d1 => cases h; exact ⟨rfl, rfl, rfl, rfl⟩
  | crcChk d0 d1 c => cases h; exact ⟨rfl, rfl, rfl, rfl⟩
  | f32Dec b0 b1 b2 b3 => cases h; exact ⟨rfl, rfl, rfl, rfl⟩
  | fifoPush p =>
    obtain ⟨-, hs⟩ | ⟨-, hs⟩ := execFifoPush_cases p s <;> cases hs.symm.trans h <;> exact ⟨rfl, rfl, rfl, rfl⟩
  | fifoPop =>
    obtain ⟨-, hs⟩ | ⟨-, hs⟩ := execFifoPop_cases s <;> cases hs.symm.trans h <;> exact ⟨rfl, rfl, rfl, rfl⟩

theorem execCommand_sameAgents {c : Request} {s t : State} (h : execCommand c s = .next t) : t.SameAgents s := by
  cases hd : decode c.cmd with
  | error e =>
    rw [execCommand_error hd] at h
    cases h
    exact ⟨rfl, rfl, rfl, rfl⟩
  | ok i =>
    rw [execCommand_ok hd] at h
    exact exec_sameAgents h

/-! ### The turn and the event by the schedule -/

theorem State.takeTurn_of_nil {s : State} (h : s.sched = []) : s.takeTurn = s := by
  simp only [State.takeTurn, h]

theorem State.takeTurn_of_rst {s : State} {ts : List Turn} (h : s.sched = .rst :: ts) :
    s.takeTurn = { s with sched := ts } := by
  simp only [State.takeTurn, h]

theorem State.takeTurn_of_producer {s : State} {ts : List Turn} (h : s.sched = .producer :: ts) :
    s.takeTurn = { s with sched := ts, producer := s.producer.tail } := by
  simp only [State.takeTurn, h]

theorem State.takeTurn_of_consumer {s : State} {ts : List Turn} (h : s.sched = .consumer :: ts) :
    s.takeTurn = { s with sched := ts, consumer := s.consumer.tail } := by
  simp only [State.takeTurn, h]

theorem State.nextEvent_of_nil {s : State} (h : s.sched = []) : s.nextEvent = .idle := by
  simp only [State.nextEvent, h]

theorem State.nextEvent_of_rst {s : State} {ts : List Turn} (h : s.sched = .rst :: ts) : s.nextEvent = .rst := by
  simp only [State.nextEvent, h]

theorem State.nextEvent_of_producer {s : State} {ts : List Turn} (h : s.sched = .producer :: ts) :
    s.nextEvent = eventOf s.producer := by
  simp only [State.nextEvent, h]

theorem State.nextEvent_of_consumer {s : State} {ts : List Turn} (h : s.sched = .consumer :: ts) :
    s.nextEvent = eventOf s.consumer := by
  simp only [State.nextEvent, h]

@[simp] theorem eventOf_nil : eventOf [] = .idle := rfl

@[simp] theorem eventOf_cons (c : Request) (cs : List Request) : eventOf (c :: cs) = .command c := rfl

theorem step_idle {s : State} (h : s.nextEvent = .idle) : step s = .next s.idle := by
  simp only [step, h]

theorem step_rst {s : State} (h : s.nextEvent = .rst) : step s = .next s.takeTurn.resetBlock := by
  simp only [step, h]

/-- Settles O8: the step executes the word on the state that has accepted it (`step_command`), which the turn determines
(`State.takeTurn_of_producer`, `State.takeTurn_of_consumer`). -/
theorem stepRunsDecodedOperation : Obligations.StepRunsDecodedOperation := by
  refine fun s c ts rest i hd => ⟨fun hs hp => ?_, fun hs hc => ?_⟩
  · have hevent : s.nextEvent = .command c := by rw [State.nextEvent_of_producer hs, hp, eventOf_cons]
    rw [step_command hevent, execCommand_ok hd, State.accept, State.takeTurn_of_producer hs, hp, List.tail_cons]
  · have hevent : s.nextEvent = .command c := by rw [State.nextEvent_of_consumer hs, hc, eventOf_cons]
    rw [step_command hevent, execCommand_ok hd, State.accept, State.takeTurn_of_consumer hs, hc, List.tail_cons]

/-- Settles O9: the event is idle in the three cases, and the turn leaves the schedule (`step_idle`). -/
theorem idleStepHoldsTheBlock : Obligations.IdleStepHoldsTheBlock := by
  refine fun s => ⟨fun hs => ?_, fun ts hs hp => ?_, fun ts hs hc => ?_⟩
  · rw [step_idle (State.nextEvent_of_nil hs), State.idle, State.takeTurn_of_nil hs]
  · have hevent : s.nextEvent = .idle := by rw [State.nextEvent_of_producer hs, hp, eventOf_nil]
    rw [step_idle hevent, State.idle, State.takeTurn_of_producer hs, hp, List.tail_nil, ← hp]
  · have hevent : s.nextEvent = .idle := by rw [State.nextEvent_of_consumer hs, hc, eventOf_nil]
    rw [step_idle hevent, State.idle, State.takeTurn_of_consumer hs, hc, List.tail_nil, ← hc]

/-- Settles O10: the step resets the block after the turn (`step_rst`, `State.takeTurn_of_rst`). -/
theorem resetStepEmptiesTheUnit : Obligations.ResetStepEmptiesTheUnit := by
  intro s ts hs
  refine ⟨s.takeTurn.resetBlock, step_rst (State.nextEvent_of_rst hs), ?_⟩
  rw [State.takeTurn_of_rst hs]
  exact ⟨rfl, rfl, rfl, rfl, rfl, rfl, rfl, rfl, rfl, rfl⟩

/-- Settles O11: the fields of the reset state as they are defined. -/
theorem resetStateIsEmpty : Obligations.ResetStateIsEmpty :=
  ⟨rfl, rfl, State.contents_reset, rfl, rfl, rfl, rfl⟩

/-! ### The step on the content -/

theorem State.contents_takeTurn (s : State) : s.takeTurn.contents = s.contents :=
  State.contents_congr s.takeTurn_slot s.takeTurn_head s.takeTurn_count

/-- What an event leaves stored and on the response port (20_memory.md R37, 70_reset_and_hazards.md R160). -/
def absStep : Event → List Entry → List Entry × Option Response
  | .idle, q => (q, none)
  | .rst, _ => ([], none)
  | .command c, q => ((absCommand c q).1, some (absCommand c q).2)

/-- A step does on the content what its event does, and takes the turn. -/
theorem step_refines_absStep (s : State) : ∃ t, step s = .next t ∧
    t.contents = (absStep s.nextEvent s.contents).1 ∧ t.rsp = (absStep s.nextEvent s.contents).2 ∧
    t.producer = s.takeTurn.producer ∧ t.consumer = s.takeTurn.consumer ∧ t.sched = s.takeTurn.sched := by
  obtain ⟨hevent, hs⟩ | ⟨hevent, hs⟩ | ⟨c, hevent, hs⟩ := step_cases s
  · rw [hevent]
    exact ⟨_, hs, s.contents_takeTurn, rfl, rfl, rfl, rfl⟩
  · rw [hevent]
    exact ⟨_, hs, State.contents_resetBlock _, rfl, rfl, rfl, rfl⟩
  · obtain ⟨t, ht, hcontents, hrsp⟩ := execCommand_refines_absCommand c s.takeTurn
    have hagents : t.SameAgents (s.accept c) := execCommand_sameAgents ht
    rw [s.contents_takeTurn] at hcontents hrsp
    rw [hevent]
    exact ⟨t, hs.trans ht, hcontents, hrsp, hagents.producer, hagents.consumer, hagents.sched⟩

theorem absStep_responds_iff (ev : Event) (q : List Entry) :
    (absStep ev q).2.isSome = true ↔ ∃ c, ev = .command c := by
  cases ev with
  | idle => simp [absStep]
  | rst => simp [absStep]
  | command c => simp [absStep]

/-- Settles O13: every step leads somewhere (`step_refines_absStep`), with a response where its event is a command
(`absStep_responds_iff`). -/
theorem everyCommandAnswersOnce : Obligations.EveryCommandAnswersOnce := by
  intro s
  obtain ⟨t, ht, -, hrsp, -⟩ := step_refines_absStep s
  exact ⟨t, ht, hrsp ▸ absStep_responds_iff s.nextEvent s.contents⟩

end Sys2Proof.Machine
end

section
/-! SUPPORT. The responses the operations give are well-formed (60_exceptions.md R141), unit by unit, and agree with the count
they leave (42_fifo.md R122, R126). -/

namespace Sys2Proof.Machine

/-! ### Fields that are zero, and responses without float fields -/

theorem Response.noFloat.exp_ne {r : Response} (h : r.noFloat) : r.exp.toNat ≠ 255 := by
  obtain ⟨-, -, hexp, -⟩ := h
  rw [hexp]
  decide

theorem Response.noFloat.fields {r : Response} (h : r.noFloat) :
    r.sign = f32Sign r.word ∧ r.exp = f32Exp r.word ∧ r.frac = f32Frac r.word ∧ r.cls = f32Class r.exp r.frac := by
  obtain ⟨hword, hsign, hexp, hfrac, hcls, -⟩ := h
  rw [hword, hsign, hexp, hfrac, hcls]
  exact ⟨rfl, rfl, rfl, rfl⟩

theorem neg_two_pow_lt_toInt_zero : -(2 ^ 138 : Int) < (0 : MilliWord).toInt := by decide

theorem Response.noFloat.milliRange {r : Response} (h : r.noFloat) : -(2 ^ 138 : Int) < r.milli.toInt := by
  obtain ⟨-, -, -, -, -, hmilli⟩ := h
  rw [hmilli]
  exact neg_two_pow_lt_toInt_zero

theorem Response.noFifo.entry {r : Response} (h : r.noFifo) : r.present = false ∧ r.rdata = 0 := by
  obtain ⟨-, -, hpresent, hrdata⟩ := h
  exact ⟨hpresent, hrdata⟩

/-- Where the status is `OK` and there are no float fields, what is left to see is that one unit answers. -/
theorem Response.wf_of_ok {r : Response} (hst : r.status = .ok) (hfloat : r.noFloat) (hunit : r.noFifo ∨ r.noCrc)
    (hgot : r.got = false → r.present = false ∧ r.rdata = 0) : r.Wf where
  oneUnit := hunit.elim (fun hfifo => .inl ⟨hfloat, hfifo⟩) fun hcrc => .inr (.inr ⟨hcrc, hfloat⟩)
  illegal h := by simp [hst] at h
  empty h := by simp [hst] at h
  crcMismatch h := by simp [hst] at h
  nonfinite := by simp [hst, hfloat.exp_ne]
  nonfiniteFields h := by simp [hst] at h
  okIsOk _ := hst
  gotAll := hgot
  floatFields := hfloat.fields
  milliRange := hfloat.milliRange

theorem Response.noCrc_only (st : Status) : (Response.only st).noCrc := ⟨rfl, rfl⟩

theorem Response.noFloat_only (st : Status) : (Response.only st).noFloat := ⟨rfl, rfl, rfl, rfl, rfl, rfl⟩

theorem Response.noFifo_only (st : Status) : (Response.only st).noFifo := ⟨rfl, rfl, rfl, rfl⟩

/-- Every field but the status is zero; the status is not that of a non-finite word, which has an exponent. -/
theorem Response.wf_only {st : Status} (h : st ≠ .nonfinite) : (Response.only st).Wf where
  oneUnit := .inl ⟨noFloat_only st, noFifo_only st⟩
  illegal _ := ⟨noCrc_only st, noFloat_only st, noFifo_only st⟩
  empty _ := ⟨noCrc_only st, noFloat_only st, noFifo_only st⟩
  crcMismatch _ := ⟨rfl, noFloat_only st, noFifo_only st⟩
  nonfinite := ⟨fun hst => absurd hst h, fun hexp => absurd hexp (noFloat_only st).exp_ne⟩
  nonfiniteFields hst := absurd hst h
  okIsOk hok := Bool.noConfusion hok
  gotAll _ := (noFifo_only st).entry
  floatFields := (noFloat_only st).fields
  milliRange := (noFloat_only st).milliRange

theorem crcCalcResponse_wf (d0 d1 : Byte) : (crcCalcResponse d0 d1).Wf :=
  Response.wf_of_ok rfl ⟨rfl, rfl, rfl, rfl, rfl, rfl⟩ (.inl ⟨rfl, rfl, rfl, rfl⟩) fun _ => ⟨rfl, rfl⟩

theorem pushResponse_wf (evicted : Bool) : (pushResponse evicted).Wf :=
  Response.wf_of_ok rfl ⟨rfl, rfl, rfl, rfl, rfl, rfl⟩ (.inr ⟨rfl, rfl⟩) fun _ => ⟨rfl, rfl⟩

theorem popResponse_wf (e : Entry) : (popResponse e).Wf :=
  Response.wf_of_ok rfl ⟨rfl, rfl, rfl, rfl, rfl, rfl⟩ (.inr ⟨rfl, rfl⟩) fun hgot => Bool.noConfusion hgot

/-! ### The two outcomes of CRC.CHK -/

theorem crcChkResponse_of_eq {d0 d1 c : Byte} (h : crc8 d0 d1 = c) :
    crcChkResponse d0 d1 c = { Response.zero with status := .ok, crc := crc8 d0 d1, ok := true } := if_pos h

theorem crcChkResponse_of_ne {d0 d1 c : Byte} (h : crc8 d0 d1 ≠ c) :
    crcChkResponse d0 d1 c = { Response.zero with status := .crcMismatch, crc := crc8 d0 d1, ok := false } := if_neg h

theorem crcChkResponse_status_ne_empty (d0 d1 c : Byte) : (crcChkResponse d0 d1 c).status ≠ .empty := by
  by_cases h : crc8 d0 d1 = c
  · rw [crcChkResponse_of_eq h]
    exact Status.noConfusion
  · rw [crcChkResponse_of_ne h]
    exact Status.noConfusion

theorem crcChkResponse_noFloat (d0 d1 c : Byte) : (crcChkResponse d0 d1 c).noFloat := by
  rw [crcChkResponse_fields]
  exact ⟨rfl, rfl, rfl, rfl, rfl, rfl⟩

theorem crcChkResponse_noFifo (d0 d1 c : Byte) : (crcChkResponse d0 d1 c).noFifo := by
  rw [crcChkResponse_fields]
  exact ⟨rfl, rfl, rfl, rfl⟩

theorem crcChkResponse_wf (d0 d1 c : Byte) : (crcChkResponse d0 d1 c).Wf := by
  by_cases h : crc8 d0 d1 = c
  · have hfields := crcChkResponse_of_eq h
    exact Response.wf_of_ok (congrArg Response.status hfields) (crcChkResponse_noFloat d0 d1 c)
      (.inl (crcChkResponse_noFifo d0 d1 c)) fun _ => (crcChkResponse_noFifo d0 d1 c).entry
  · have hfloat := crcChkResponse_noFloat d0 d1 c
    have hfifo := crcChkResponse_noFifo d0 d1 c
    have hst : (crcChkResponse d0 d1 c).status = .crcMismatch := by rw [crcChkResponse_of_ne h]
    have hok : (crcChkResponse d0 d1 c).ok = false := by rw [crcChkResponse_of_ne h]
    exact
      { oneUnit := .inl ⟨hfloat, hfifo⟩
        illegal := fun hill => by simp [hst] at hill
        empty := fun hemp => by simp [hst] at hemp
        crcMismatch := fun _ => ⟨hok, hfloat, hfifo⟩
        nonfinite := by simp [hst, hfloat.exp_ne]
        nonfiniteFields := fun hnon => by simp [hst] at hnon
        okIsOk := fun htrue => by simp [hok] at htrue
        gotAll := fun _ => hfifo.entry
        floatFields := hfloat.fields
        milliRange := hfloat.milliRange }

/-! ### The response of F32.DEC -/

theorem f32Response_of_nonfinite {w : Word32} (h : (f32Exp w).toNat = 255) : f32Response w = { Response.zero with
    status := .nonfinite, word := w, sign := f32Sign w, exp := f32Exp w, frac := f32Frac w,
    cls := f32Class (f32Exp w) (f32Frac w), milli := 0 } := if_pos h

theorem f32Response_status (w : Word32) :
    (f32Response w).status = if (f32Exp w).toNat = 255 then .nonfinite else .ok := by
  unfold f32Response
  split <;> rfl

theorem f32Class_of_maximal (e : BitVec 8) (f : BitVec 23) (h : e.toNat = 255) :
    f32Class e f = if f = 0 then .infinity else .nan := by
  have he : e = 255 := BitVec.eq_of_toNat_eq h
  rw [he]
  split
  next hf => rw [hf, f32Class_infinity]
  next hf => exact f32Class_nan hf

theorem f32Response_noCrc (w : Word32) : (f32Response w).noCrc := by
  rw [f32Response_fields]
  exact ⟨rfl, rfl⟩

theorem f32Response_noFifo (w : Word32) : (f32Response w).noFifo := by
  rw [f32Response_fields]
  exact ⟨rfl, rfl, rfl, rfl⟩

/-- Whether or not the word is finite, the field never holds the lowest of its 139-bit numbers
(43_arithmetic_and_absent_families.md R171). -/
theorem f32Response_milliRange (w : Word32) : -(2 ^ 138 : Int) < (f32Response w).milli.toInt := by
  by_cases h : (f32Exp w).toNat = 255
  · rw [f32Response_of_nonfinite h]
    exact neg_two_pow_lt_toInt_zero
  · have hfinite := (f32Finite_iff w).mpr h
    have hbound := milliMagnitude_le_of_finite hfinite
    have habs := (abs_le.mp (abs_milli (f32Sign w) (f32Exp w).toNat (f32Frac w).toNat).le).1
    rw [toInt_milli_f32Response hfinite]
    omega

theorem f32Response_wf (w : Word32) : (f32Response w).Wf where
  oneUnit := .inr (.inl ⟨f32Response_noCrc w, f32Response_noFifo w⟩)
  illegal h := absurd h (f32Response_status_ne_illegal w)
  empty h := by rw [f32Response_status] at h; split at h <;> cases h
  crcMismatch h := by rw [f32Response_status] at h; split at h <;> cases h
  nonfinite := by rw [f32Response_status, f32Response_exp]; split <;> simp [*]
  nonfiniteFields h := by
    have hexp : (f32Exp w).toNat = 255 := by
      rw [f32Response_status] at h
      by_contra hne
      rw [if_neg hne] at h
      cases h
    refine ⟨?_, by rw [f32Response_of_nonfinite hexp], f32Response_noCrc w, f32Response_noFifo w⟩
    rw [f32Response_cls, f32Class_of_maximal _ _ hexp]
    split
    · exact .inl rfl
    · exact .inr rfl
  okIsOk h := by rw [(f32Response_noCrc w).2] at h; cases h
  gotAll _ := (f32Response_noFifo w).entry
  floatFields := ⟨by simp, by simp, by simp, by simp⟩
  milliRange := f32Response_milliRange w

/-! ### The port after a step -/

theorem State.portInv_of_rsp_none {s : State} (h : s.rsp = none) : s.PortInv := fun r hr => by
  rw [h] at hr
  cases hr

theorem State.portInv_respond {r : Response} {s : State} (hwf : r.Wf) (hevicted : r.evicted = true → s.count.val = 20)
    (hgot : r.got = true → s.count.val < 20) (hempty : r.status = .empty → s.count.val = 0) :
    (s.respond r).PortInv := fun _ hr => by
  cases hr
  exact ⟨hwf, hevicted, hgot, hempty⟩

/-- A response of another unit, or of a refused word, says nothing about `count`. -/
theorem State.portInv_respond_of_noFifo {r : Response} (hwf : r.Wf) (hfifo : r.noFifo) (hempty : r.status ≠ .empty)
    (s : State) : (s.respond r).PortInv := by
  obtain ⟨hevicted, hgot, -⟩ := hfifo
  exact State.portInv_respond hwf (fun h => by simp [hevicted] at h) (fun h => by simp [hgot] at h)
    fun h => absurd h hempty

theorem execFifoPush_portInv {p : Bool} {s t : State} (h : execFifoPush p s = .next t) : t.PortInv := by
  obtain ⟨hfull, hs⟩ | ⟨-, hs⟩ := execFifoPush_cases p s <;> cases hs.symm.trans h
  · exact State.portInv_respond (pushResponse_wf true) (fun _ => hfull) (fun hgot => Bool.noConfusion hgot)
      fun hempty => Status.noConfusion hempty
  · exact State.portInv_respond (pushResponse_wf false) (fun hevicted => Bool.noConfusion hevicted)
      (fun hgot => Bool.noConfusion hgot) fun hempty => Status.noConfusion hempty

theorem execFifoPop_portInv {s t : State} (h : execFifoPop s = .next t) : t.PortInv := by
  obtain ⟨hempty, hs⟩ | ⟨hstored, hs⟩ := execFifoPop_cases s <;> cases hs.symm.trans h
  · exact State.portInv_respond (Response.wf_only Status.noConfusion) (fun hevicted => Bool.noConfusion hevicted)
      (fun hgot => Bool.noConfusion hgot) fun _ => hempty
  · have hroom : s.removeOldest.count.val < 20 := by
      rw [State.removeOldest_count, decCount_val]
      omega
    exact State.portInv_respond (popResponse_wf _) (fun hevicted => Bool.noConfusion hevicted) (fun _ => hroom)
      fun hst => Status.noConfusion hst

/-- Whatever stood on the port before, an operation leaves a response there that agrees with the unit. -/
theorem exec_portInv {i : Instr} {s t : State} (h : exec i s = .next t) : t.PortInv := by
  cases i with
  | crcCalc d0 d1 =>
    cases h
    exact State.portInv_respond_of_noFifo (crcCalcResponse_wf d0 d1) ⟨rfl, rfl, rfl, rfl⟩ Status.noConfusion s
  | crcChk d0 d1 c =>
    cases h
    exact State.portInv_respond_of_noFifo (crcChkResponse_wf d0 d1 c) (crcChkResponse_noFifo d0 d1 c)
      (crcChkResponse_status_ne_empty d0 d1 c) s
  | f32Dec b0 b1 b2 b3 =>
    cases h
    have hempty : (f32Response (word32 b0 b1 b2 b3)).status ≠ .empty := by
      rw [f32Response_status]
      split <;> exact Status.noConfusion
    exact State.portInv_respond_of_noFifo (f32Response_wf _) (f32Response_noFifo _) hempty s
  | fifoPush p => exact execFifoPush_portInv h
  | fifoPop => exact execFifoPop_portInv h

theorem execCommand_portInv {c : Request} {s t : State} (h : execCommand c s = .next t) : t.PortInv := by
  cases hd : decode c.cmd with
  | error e =>
    rw [execCommand_error hd] at h
    cases h
    exact State.portInv_respond_of_noFifo (Response.wf_only Status.noConfusion) (Response.noFifo_only _)
      Status.noConfusion s
  | ok i =>
    rw [execCommand_ok hd] at h
    exact exec_portInv h

/-- Settles O14: a step that accepts no command leaves the port empty, and a command leaves a response that agrees with the
unit (`execCommand_portInv`), whatever stood there before. -/
theorem stepKeepsPortInv : Obligations.StepKeepsPortInv := by
  intro s t _ h
  obtain ⟨-, hs⟩ | ⟨-, hs⟩ | ⟨c, -, hs⟩ := step_cases s
  · cases hs.symm.trans h
    exact State.portInv_of_rsp_none s.idle_rsp
  · cases hs.symm.trans h
    exact State.portInv_of_rsp_none s.takeTurn.resetBlock_rsp
  · exact execCommand_portInv (hs.symm.trans h)

/-- Settles O15: no response is pending at reset. -/
theorem resetHasPortInv : Obligations.ResetHasPortInv := State.portInv_of_rsp_none rfl

end Sys2Proof.Machine
end

section
/-! SUPPORT. What the commands of the CRC unit answer (40_crc8.md R82, R85), and the distance of the code (R88): a change of
the data bytes changes the checksum by a difference of its own, and the two changes have four bits or more together. -/

namespace Sys2Proof.Machine

/-- Settles O17: the loop is the table form (`crc8_eq_crc8ByTable`). -/
theorem crcCalcAnswersTheChecksum : Obligations.CrcCalcAnswersTheChecksum := by
  intro d0 d1 s
  rw [exec_crcCalc, crcCalcResponse, crc8_eq_crc8ByTable]
  rfl

/-- Settles O18: the two outcomes of `CRC.CHK` (`crcChkResponse_of_eq`, `crcChkResponse_of_ne`), by the table form. -/
theorem crcChkComparesTheChecksum : Obligations.CrcChkComparesTheChecksum := by
  intro d0 d1 c s
  rw [exec_crcChk, ← crc8_eq_crc8ByTable]
  refine ⟨fun heq => ?_, fun hne => ?_⟩
  · rw [crcChkResponse_of_eq heq, heq]
    rfl
  · rw [crcChkResponse_of_ne hne]
    rfl

/-! ### The difference a change makes -/

/-- Changing the data bytes changes the checksum by the loop over the changes, from zero instead of the seed. -/
theorem crc8_xor (d0 d1 e0 e1 : Byte) :
    crc8 (d0 ^^^ e0) (d1 ^^^ e1) = crc8 d0 d1 ^^^ crcByte (crcByte 0#8 e0) e1 := by
  rw [crc8_eq, crc8_eq, ← crcByte_xor, ← crcByte_xor, BitVec.xor_zero]

theorem one_le_bitCount : ∀ x : Byte, x ≠ 0#8 → 1 ≤ bitCount x := by decide +kernel

theorem four_le_bitCount_pass : ∀ x : Byte, x ≠ 0#8 → 4 ≤ bitCount x + bitCount (crcByte 0#8 x) := by decide +kernel

theorem four_le_bitCount_two_passes : ∀ x : Byte, x ≠ 0#8 → 4 ≤ bitCount x + bitCount (crcByte (crcByte 0#8 x) 0#8) := by
  decide +kernel

theorem bitCount_of_single_bits : ∀ x : Byte, bitCount x = 1 → ∀ y : Byte, bitCount y = 1 →
    bitCount (crcByte (crcByte 0#8 x) y) ≠ 1 := by decide +kernel

/-- The code has distance 4. Where one of the three changes is zero the other two are a byte and its passes, which are
looked up; where none is, they have a bit each and three bits together are excluded. -/
theorem four_le_bitCount {e0 e1 : Byte} (h : e0 ≠ 0#8 ∨ e1 ≠ 0#8) :
    4 ≤ bitCount e0 + bitCount e1 + bitCount (crcByte (crcByte 0#8 e0) e1) := by
  by_cases h0 : e0 = 0#8
  · have hpass := four_le_bitCount_pass e1 (h.resolve_left (not_not_intro h0))
    have hsame : crcByte (crcByte 0#8 e0) e1 = crcByte 0#8 e1 := by rw [h0, crcByte_self]
    rw [hsame]
    omega
  by_cases h1 : e1 = 0#8
  · have hpasses := four_le_bitCount_two_passes e0 h0
    rw [h1]
    omega
  by_cases hc : crcByte (crcByte 0#8 e0) e1 = 0#8
  · have hmeet : e1 = crcByte 0#8 e0 := crcByte_injective_right _ (hc.trans (crcByte_self _).symm)
    have hpass := four_le_bitCount_pass e0 h0
    rw [hmeet]
    omega
  have hbit0 := one_le_bitCount e0 h0
  have hbit1 := one_le_bitCount e1 h1
  have hbitc := one_le_bitCount _ hc
  by_contra hfew
  exact bitCount_of_single_bits e0 (by omega) e1 (by omega) (by omega)

/-- A change of one to three bits of a valid word leaves no valid word. -/
theorem crc8_xor_ne {d0 d1 c e0 e1 ec : Byte} (hvalid : crc8 d0 d1 = c)
    (hpos : 1 ≤ bitCount e0 + bitCount e1 + bitCount ec) (hfew : bitCount e0 + bitCount e1 + bitCount ec ≤ 3) :
    crc8 (d0 ^^^ e0) (d1 ^^^ e1) ≠ c ^^^ ec := by
  intro heq
  rw [crc8_xor, hvalid, BitVec.xor_right_inj] at heq
  rw [← heq] at hpos hfew
  by_cases hdata : e0 ≠ 0#8 ∨ e1 ≠ 0#8
  · have hdistance := four_le_bitCount hdata
    omega
  · obtain ⟨h0, h1⟩ : e0 = 0#8 ∧ e1 = 0#8 := by simpa using hdata
    rw [h0, h1, crcByte_self, crcByte_self] at hpos
    exact absurd hpos (by decide)

/-- A word that is not valid is answered `CRC_MISMATCH` (40_crc8.md R85). -/
theorem exec_crcChk_of_ne {d0 d1 c : Byte} (h : crc8 d0 d1 ≠ c) (s : State) :
    ∃ t r, exec (.crcChk d0 d1 c) s = .next t ∧ t.rsp = some r ∧ r.status = .crcMismatch :=
  ⟨_, _, exec_crcChk d0 d1 c s, s.respond_rsp _, by rw [crcChkResponse_of_ne h]⟩

/-- Settles O23: validity fixes the checksum byte, and no change of one to three bits keeps it (`crc8_xor_ne`). -/
theorem corruptedWordsAreFound : Obligations.CorruptedWordsAreFound := by
  refine ⟨fun d0 d1 => ?_, fun d0 d1 c e s hvalid he => ?_, fun d0 d1 c e0 e1 ec s hvalid hpos hfew => ?_⟩
  · simp only [WireWord.valid_iff]
    exact existsUnique_eq'
  · refine exec_crcChk_of_ne (fun heq => he ?_) s
    rw [hvalid, ← BitVec.xor_zero (x := c), BitVec.xor_assoc, BitVec.zero_xor, BitVec.xor_right_inj] at heq
    exact heq.symm
  · exact exec_crcChk_of_ne (crc8_xor_ne hvalid hpos hfew) s

end Sys2Proof.Machine
end

section
/-! SUPPORT. The values `F32.DEC` answers: non-finite words, the error bound (41_f32_decode.md R113), the sign bit
(43_arithmetic_and_absent_families.md R171) and the exponent field zero (R105). -/

namespace Sys2Proof.Machine

/-- Settles O25: OR of the shifted bytes is the bytes behind one another (`exec_f32Dec_append`). -/
theorem decodeAnswersForTheWordOfTheBytes : Obligations.DecodeAnswersForTheWordOfTheBytes := exec_f32Dec_append

/-- Settles O27: the response to a word of maximal exponent (`f32Response_of_nonfinite`), its fields said of the bytes. -/
theorem nonfiniteWordsAnswerNonfinite : Obligations.NonfiniteWordsAnswerNonfinite := by
  intro b0 b1 b2 b3 s hexp
  have he : f32Exp (b0 ++ b1 ++ b2 ++ b3) = 255 := hexp
  have hmax : (f32Exp (b0 ++ b1 ++ b2 ++ b3)).toNat = 255 := by rw [he]; rfl
  rw [exec_f32Dec_append, f32Response_of_nonfinite hmax, f32Class_of_maximal _ _ hmax, he, f32Sign_append,
    f32Frac_append]
  rfl

/-- `milli` is the rounded magnitude with the sign of the word. -/
theorem toInt_milli_eq_sign_mul {w : Word32} (h : f32Finite w = true) : (f32Response w).milli.toInt =
    (if f32Sign w then -1 else 1) * roundHalfEven (f32Magnitude w * 1000) := by
  rw [toInt_milli_f32Response h, milli_eq, milliMagnitude_of_word]

theorem f32Value_eq_sign_mul (w : Word32) : f32Value w = (if f32Sign w then -1 else 1) * f32Magnitude w := by
  unfold f32Value
  split <;> ring

/-- The sign is attached after the rounding, so the error is that of the magnitude (41_f32_decode.md R107, R113). -/
theorem abs_milli_sub_value_le {w : Word32} (h : f32Finite w = true) :
    |((f32Response w).milli.toInt : ℚ) / 1000 - f32Value w| ≤ 1 / 2000 := by
  obtain ⟨hlow, hhigh⟩ := abs_le.mp (abs_roundHalfEven_sub_le (f32Magnitude w * 1000))
  rw [toInt_milli_eq_sign_mul h, f32Value_eq_sign_mul, abs_le]
  split
  · push_cast
    exact ⟨by linarith, by linarith⟩
  · push_cast
    exact ⟨by linarith, by linarith⟩

/-- Settles O29: the rounding is off by one half at most (`abs_milli_sub_value_le`). -/
theorem roundedWithinHalfAThousandth : Obligations.RoundedWithinHalfAThousandth := fun b0 b1 b2 b3 s h =>
  ⟨_, _, exec_f32Dec_append b0 b1 b2 b3 s, rfl, abs_milli_sub_value_le h⟩

/-! ### The sign bit -/

theorem f32Sign_xor_signBit (w : Word32) : f32Sign (w ^^^ 0x80000000) = !f32Sign w := by
  simp [f32Sign]

theorem f32Exp_xor_signBit (w : Word32) : f32Exp (w ^^^ 0x80000000) = f32Exp w := by
  simp [f32Exp, BitVec.extractLsb'_xor]

theorem f32Frac_xor_signBit (w : Word32) : f32Frac (w ^^^ 0x80000000) = f32Frac w := by
  simp [f32Frac, BitVec.extractLsb'_xor]

theorem milli_not (sign : Bool) (e f : ℕ) : milli (!sign) e f = -milli sign e f := by
  cases sign <;> simp [milli]

/-- Settles O32: turning the sign bit over leaves exponent and fraction (`f32Exp_xor_signBit`, `f32Frac_xor_signBit`), which
decide everything but the sign of `milli` (`milli_not`). -/
theorem milliIsSignSymmetric : Obligations.MilliIsSignSymmetric := by
  intro w h
  have hexp := f32Exp_xor_signBit w
  have hfrac := f32Frac_xor_signBit w
  have hsign := f32Sign_xor_signBit w
  have hturned : f32Finite (w ^^^ 0x80000000) = true := by rwa [f32Finite, hexp]
  refine ⟨?_, ?_, ?_, ?_, ?_, ?_⟩
  · rw [toInt_milli_f32Response hturned, toInt_milli_f32Response h, hsign, hexp, hfrac, milli_not]
  · rw [f32Response_sign, f32Response_sign, hsign]
  · rw [f32Response_status, f32Response_status, hexp]
  · rw [f32Response_cls, f32Response_cls, hexp, hfrac]
  · rw [f32Response_exp, f32Response_exp, hexp]
  · rw [f32Response_frac, f32Response_frac, hfrac]

/-! ### Exponent field zero -/

theorem f32Magnitude_of_exp_zero {w : Word32} (h : f32Exp w = 0) :
    f32Magnitude w = ((f32Frac w).toNat : ℚ) * 2 ^ (-149 : ℤ) := by
  simp [f32Magnitude, h]

theorem f32Class_of_exp_zero (f : BitVec 23) : f32Class 0 f = if f = 0 then .zero else .subnormal := by
  split
  next hf => rw [hf, f32Class_zero]
  next hf => exact f32Class_subnormal hf

/-- Settles O34: the magnitude is the fraction times `2^-149` (`f32Magnitude_of_exp_zero`), so `milli` is zero
(`toInt_milli_eq_zero_iff`). -/
theorem zeroAndSubnormalAnswerZero : Obligations.ZeroAndSubnormalAnswerZero := by
  intro w h
  have hexp : (f32Exp w).toNat = 0 := by rw [h]; rfl
  have hfinite : f32Finite w = true := (f32Finite_iff w).mpr (by omega)
  have hfrac : ((f32Frac w).toNat : ℚ) < 2 ^ 23 := by exact_mod_cast (f32Frac w).isLt
  have hmagnitude := f32Magnitude_of_exp_zero h
  have hsmall : f32Magnitude w < 2 ^ (-126 : ℤ) := by
    rw [hmagnitude]
    norm_num
    linarith
  have hmilli : (f32Response w).milli.toInt = 0 := (toInt_milli_eq_zero_iff hfinite).mpr (hsmall.trans (by norm_num))
  refine ⟨f32Response_status_of_finite hfinite, BitVec.eq_of_toInt_eq hmilli, ?_, ?_, ?_⟩
  · rw [f32Response_cls, h, f32Class_of_exp_zero]
  · rw [abs_f32Value, hmagnitude]
  · rw [abs_f32Value]
    exact hsmall

/-- Settles O35: each word is evaluated. -/
theorem tieExamples : Obligations.TieExamples := by
  unfold Obligations.TieExamples
  decide +kernel

/-! ### A field of six bytes -/

/-- A word is the four bytes it is cut into. -/
theorem word32_extractLsb' (w : Word32) :
    word32 (w.extractLsb' 24 8) (w.extractLsb' 16 8) (w.extractLsb' 8 8) (w.extractLsb' 0 8) = w := by
  have hw := word32_argBytes (w ++ 0#4)
  rwa [argByte3, argByte2, argByte1, argByte0, argOf_append] at hw

/-- The word a sender makes of two data bytes is answered valid (40_crc8.md R86). -/
theorem exec_check_ofData (d0 d1 : Byte) (s : State) :
    ∃ t r, exec (WireWord.ofData d0 d1).check s = .next t ∧ t.rsp = some r ∧ r.ok = true :=
  ⟨_, _, exec_crcChk d0 d1 (crc8 d0 d1) s, s.respond_rsp _, (crcChkResponse_ok_iff d0 d1 _).mpr rfl⟩

/-- Settles O56: both words are made with their checksum (`exec_check_ofData`), and the data bytes spell the word again
(`word32_extractLsb'`). -/
theorem fieldOfAWordDecodesToIt : Obligations.FieldOfAWordDecodesToIt := by
  intro w s
  refine ⟨rfl, exec_check_ofData _ _ s, exec_check_ofData _ _ s, ?_⟩
  refine ⟨_, _, exec_f32Dec (w.extractLsb' 24 8) (w.extractLsb' 16 8) (w.extractLsb' 8 8) (w.extractLsb' 0 8) s,
    s.respond_rsp _, ?_⟩
  rw [f32Response_word, word32_extractLsb']

end Sys2Proof.Machine
end

section
/-! SUPPORT. The operations on the ring registers and on everything else (20_memory.md R34, 42_fifo.md R122, R126), and what
neither the hidden state (10_state.md R20) nor the `wdata` bus (30_encoding.md R54) can change. -/

namespace Sys2Proof.Machine

/-! ### One operation -/

/-- Settles O36: the push on the content (`exec_refines_absExec`) and its frame (`exec_sameAgents`). -/
theorem pushAppendsTheEntry : Obligations.PushAppendsTheEntry := by
  intro p s
  obtain ⟨t, ht, hq, hr⟩ := exec_refines_absExec (.fifoPush p) s
  obtain ⟨hwdata, hproducer, hconsumer, hsched⟩ := exec_sameAgents ht
  exact ⟨t, ht, hq, hr, hwdata, hproducer, hconsumer, hsched⟩

/-- A pop writes no slot: the popped one keeps its bits. -/
theorem execFifoPop_slot {s t : State} (h : execFifoPop s = .next t) : t.slot = s.slot := by
  obtain ⟨-, hs⟩ | ⟨-, hs⟩ := execFifoPop_cases s <;> cases hs.symm.trans h <;> rfl

/-- Settles O37: with nothing stored a pop raises `EMPTY` (`execFifoPop_empty`); else it is the pop on the content
(`exec_refines_absExec`) and its frame. -/
theorem popReturnsTheOldest : Obligations.PopReturnsTheOldest := by
  refine fun s => ⟨fun hs => execFifoPop_empty (State.contents_eq_nil.mp hs), fun e q hs => ?_⟩
  obtain ⟨t, ht, hq, hr⟩ := exec_refines_absExec .fifoPop s
  obtain ⟨hwdata, hproducer, hconsumer, hsched⟩ := exec_sameAgents ht
  rw [hs] at hq hr
  exact ⟨t, ht, hq, hr, execFifoPop_slot ht, hwdata, hproducer, hconsumer, hsched⟩

/-- Settles O38: the two forms of a push (`execFifoPush_full`, `execFifoPush_room`) and the slot each writes. -/
theorem pushOnTheRingRegisters : Obligations.PushOnTheRingRegisters := by
  refine fun p s => ⟨fun hfull => ⟨_, execFifoPush_full p hfull, ?_⟩,
    fun hroom => ⟨_, execFifoPush_room p hroom.ne, ?_⟩⟩
  · have hread (j : Fin 20) := s.readSlot_replaceOldest (s.pushedEntry p) j
    exact ⟨(hread s.head).trans (if_pos rfl), fun j hj => (hread j).trans (if_neg hj), nextIndex_val s.head, rfl⟩
  · refine ⟨fun j => ?_, rfl, incCount_val hroom⟩
    have hplace : j = slotIndex s.head s.count.val ↔ j.val = (s.head.val + s.count.val) % 20 := Fin.ext_iff
    exact (s.readSlot_appendNewest (s.pushedEntry p) j).trans (if_congr hplace rfl rfl)

/-- Settles O39: the removal of the oldest entry (`execFifoPop_stored`). -/
theorem popOnTheRingRegisters : Obligations.PopOnTheRingRegisters := fun s hstored =>
  ⟨_, execFifoPop_stored hstored.ne', rfl, nextIndex_val s.head, rfl, _, rfl, rfl, rfl⟩

/-- Settles O40: a pure operation gives its response and nothing else (`exec_of_isPure`). -/
theorem pureOperationsFrame : Obligations.PureOperationsFrame := by
  intro i s hpure
  obtain ⟨r, hr⟩ := exec_of_isPure hpure
  exact ⟨r, hr s⟩

theorem execFifoPush_frame {p : Bool} {s t : State} (h : execFifoPush p s = .next t) :
    (∀ j : Fin 20, j ≠ (if s.count.val = 20 then s.head else slotIndex s.head s.count.val) →
      t.readSlot j = s.readSlot j) ∧
    (s.count.val ≠ 20 → t.head = s.head) ∧ (s.count.val = 20 → t.count = s.count) := by
  obtain ⟨hfull, hs⟩ | ⟨hroom, hs⟩ := execFifoPush_cases p s <;> cases hs.symm.trans h
  · refine ⟨fun j hj => ?_, fun hne => absurd hfull hne, fun _ => rfl⟩
    rw [if_pos hfull] at hj
    rw [State.readSlot_respond, State.readSlot_replaceOldest, if_neg hj]
  · refine ⟨fun j hj => ?_, fun _ => rfl, fun hfull => absurd hfull hroom.ne⟩
    rw [if_neg hroom.ne] at hj
    rw [State.readSlot_respond, State.readSlot_appendNewest, if_neg hj]

theorem execFifoPop_frame {s t : State} (h : execFifoPop s = .next t) :
    (∀ j : Fin 20, t.readSlot j = s.readSlot j) ∧ (s.count.val = 0 → t.head = s.head ∧ t.count = s.count) := by
  obtain ⟨-, hs⟩ | ⟨hstored, hs⟩ := execFifoPop_cases s <;> cases hs.symm.trans h
  · exact ⟨fun _ => rfl, fun _ => ⟨rfl, rfl⟩⟩
  · exact ⟨fun _ => rfl, fun hempty => absurd hempty hstored.ne'⟩

/-- Settles O41: each operation's frame on the ring (`execFifoPush_frame`, `execFifoPop_frame`) and on the agents' side
(`exec_sameAgents`). -/
theorem fifoOperationsFrame : Obligations.FifoOperationsFrame := by
  refine ⟨fun p s t h => ?_, fun s t h => ?_⟩
  · obtain ⟨hwdata, hproducer, hconsumer, hsched⟩ := exec_sameAgents h
    obtain ⟨hslots, hhead, hcount⟩ := execFifoPush_frame h
    exact ⟨hslots, hhead, hcount, hwdata, hproducer, hconsumer, hsched⟩
  · obtain ⟨hwdata, hproducer, hconsumer, hsched⟩ := exec_sameAgents h
    obtain ⟨hslots, hring⟩ := execFifoPop_frame h
    exact ⟨hslots, hring, hwdata, hproducer, hconsumer, hsched⟩

/-! ### Hidden state -/

theorem State.SameContents.nextEvent {s s' : State} (h : s.SameContents s') : s.nextEvent = s'.nextEvent := by
  obtain ⟨-, hproducer, hconsumer, hsched⟩ := h
  simp only [State.nextEvent, hproducer, hconsumer, hsched]

theorem State.SameContents.takeTurn {s s' : State} (h : s.SameContents s') : s.takeTurn.SameContents s'.takeTurn := by
  obtain ⟨hq, hproducer, hconsumer, hsched⟩ := h
  refine ⟨by rw [State.contents_takeTurn, State.contents_takeTurn, hq], ?_⟩
  unfold State.takeTurn
  rw [hsched, hproducer, hconsumer]
  split
  next => exact ⟨hproducer, hconsumer, hsched⟩
  next => exact ⟨rfl, rfl, rfl⟩
  next => exact ⟨rfl, rfl, rfl⟩
  next => exact ⟨rfl, rfl, rfl⟩

/-- Settles O43: the content and the event decide the step (`step_refines_absStep`), and both states have the same. -/
theorem hiddenStateIsHidden : Obligations.HiddenStateIsHidden := by
  intro s s' h
  obtain ⟨t, ht, hq, hr, hproducer, hconsumer, hsched⟩ := step_refines_absStep s
  obtain ⟨t', ht', hq', hr', hproducer', hconsumer', hsched'⟩ := step_refines_absStep s'
  obtain ⟨-, hturnProducer, hturnConsumer, hturnSched⟩ := h.takeTurn
  have ⟨hcontents, _⟩ := h
  rw [← h.nextEvent, ← hcontents] at hq' hr'
  exact ⟨t, t', ht, ht',
    ⟨hq.trans hq'.symm, hproducer.trans (hturnProducer.trans hproducer'.symm),
      hconsumer.trans (hturnConsumer.trans hconsumer'.symm), hsched.trans (hturnSched.trans hsched'.symm)⟩,
    hr.trans hr'.symm⟩

/-! ### The wdata bus -/

/-- An operation that is no push hands `wdata` through and makes nothing of it. -/
theorem exec_setWdata {i : Instr} (h : ∀ p, i ≠ .fifoPush p) (s : State) :
    ∃ t : State, ∀ d, exec i { s with wdata := d } = .next { t with wdata := d } := by
  cases i with
  | crcCalc d0 d1 => exact ⟨s.respond _, fun _ => rfl⟩
  | crcChk d0 d1 c => exact ⟨s.respond _, fun _ => rfl⟩
  | f32Dec b0 b1 b2 b3 => exact ⟨s.respond _, fun _ => rfl⟩
  | fifoPush p => exact absurd rfl (h p)
  | fifoPop =>
    by_cases hempty : s.count.val = 0
    · exact ⟨s.respond (Response.only .empty), fun _ => execFifoPop_empty hempty⟩
    · exact ⟨s.removeOldest.respond (popResponse (s.readSlot s.head)), fun _ => execFifoPop_stored hempty⟩

/-- Settles O44: a refused word raises `ILLEGAL` whatever stands on `wdata`; of the operations `exec_setWdata`. -/
theorem wdataMattersToPushAlone : Obligations.WdataMattersToPushAlone := by
  intro cmd d d' s hpush
  cases hd : decode cmd with
  | error e =>
    exact ⟨s.respond (Response.only .illegal), execCommand_error (r := ⟨cmd, d⟩) hd _,
      execCommand_error (r := ⟨cmd, d'⟩) hd _⟩
  | ok i =>
    obtain ⟨t, ht⟩ := exec_setWdata (i := i) (fun p hi => hpush p (hi ▸ hd)) s
    exact ⟨t, (execCommand_ok (r := ⟨cmd, d⟩) hd _).trans (ht d), (execCommand_ok (r := ⟨cmd, d'⟩) hd _).trans (ht d')⟩

end Sys2Proof.Machine
end

section
/-! SUPPORT. What the agents can trust (70_reset_and_hazards.md R166 (f)): which commands raise and lower `count`, what the
status outputs say of the next command, and why they stay good over the other agent's turns under the ownership
convention (60_exceptions.md R150). -/

namespace Sys2Proof.Machine

/-! ### One step -/

theorem State.length_contents_le (s : State) : s.contents.length ≤ 20 := by
  rw [s.length_contents]
  exact Nat.le_of_lt_succ s.count.isLt

theorem State.fifoEmpty_eq_false {s : State} : s.fifoEmpty = false ↔ s.contents ≠ [] := by
  rw [ne_eq, State.contents_eq_nil, ← State.fifoEmpty_eq_true, Bool.not_eq_true]

theorem State.fifoFull_eq_false {s : State} : s.fifoFull = false ↔ s.contents.length ≠ 20 := by
  rw [s.length_contents, ne_eq, ← State.fifoFull_eq_true, Bool.not_eq_true]

/-- A step that accepts an operation does on the content what the operation does. -/
theorem step_refines_absExec {s : State} {c : Request} {i : Instr} (h : s.nextEvent = .command c)
    (hd : decode c.cmd = .ok i) : ∃ t, step s = .next t ∧ t.contents = (absExec i c.wdata s.contents).1 ∧
      t.rsp = some (absExec i c.wdata s.contents).2 := by
  obtain ⟨t, ht, hq, hr, -⟩ := step_refines_absStep s
  rw [h, absStep, absCommand_ok hd] at hq hr
  exact ⟨t, ht, hq, hr⟩

theorem step_push_count_le {s t : State} {c : Request} {p : Bool} (h : s.nextEvent = .command c)
    (hd : decode c.cmd = .ok (.fifoPush p)) (hs : step s = .next t) : s.count.val ≤ t.count.val := by
  obtain ⟨u, hu, hq, -⟩ := step_refines_absExec h hd
  cases hu.symm.trans hs
  have hle := s.length_contents_le
  have hlen : t.contents.length = min (s.contents.length + 1) 20 := hq ▸ length_absPush ⟨p, c.wdata⟩ hle
  rw [s.length_contents] at hle hlen
  rw [t.length_contents] at hlen
  omega

theorem step_pop_count_le {s t : State} {c : Request} (h : s.nextEvent = .command c)
    (hd : decode c.cmd = .ok .fifoPop) (hs : step s = .next t) : t.count.val ≤ s.count.val := by
  obtain ⟨u, hu, hq, -⟩ := step_refines_absExec h hd
  cases hu.symm.trans hs
  have hlen : t.contents.length = s.contents.length - 1 := hq ▸ List.length_tail
  rw [t.length_contents, s.length_contents] at hlen
  omega

/-- A pop accepted while something is stored returns an entry. -/
theorem step_pop_returns {s : State} {c : Request} (h : s.nextEvent = .command c) (hstored : s.contents ≠ [])
    (hd : decode c.cmd = .ok .fifoPop) :
    ∃ t r, step s = .next t ∧ t.rsp = some r ∧ r.status = .ok ∧ r.got = true := by
  obtain ⟨t, ht, -, hr⟩ := step_refines_absExec h hd
  obtain ⟨e, q, hq⟩ := List.exists_cons_of_ne_nil hstored
  rw [hq] at hr
  exact ⟨t, _, ht, hr, rfl, rfl⟩

/-- A push accepted while there is room evicts nothing. -/
theorem step_push_evicts_none {s : State} {c : Request} {p : Bool} (h : s.nextEvent = .command c)
    (hroom : s.contents.length ≠ 20) (hd : decode c.cmd = .ok (.fifoPush p)) :
    ∃ t r, step s = .next t ∧ t.rsp = some r ∧ r.status = .ok ∧ r.evicted = false := by
  obtain ⟨t, ht, -, hr⟩ := step_refines_absExec h hd
  exact ⟨t, _, ht, hr, rfl, decide_eq_false hroom⟩

/-- Settles O51: only the FIFO's operations change `count` (`step_count_or_fifo`), each in its own direction
(`step_push_count_le`, `step_pop_count_le`). -/
theorem onlyPushRaisesOnlyPopLowers : Obligations.OnlyPushRaisesOnlyPopLowers := by
  refine ⟨fun s t hs hrst => ⟨fun hraised => ?_, fun hlowered => ?_⟩, fun s c h hempty hd => ?_,
    fun s c p h hfull hd => ?_⟩
  · obtain hcount | hreset | ⟨c, hc, ⟨p, hpush⟩ | hpop⟩ := step_count_or_fifo hs
    · exact absurd hraised (by rw [hcount]; exact lt_irrefl _)
    · exact absurd hreset hrst
    · exact ⟨c, p, hc, hpush⟩
    · exact absurd hraised (step_pop_count_le hc hpop hs).not_gt
  · obtain hcount | hreset | ⟨c, hc, ⟨p, hpush⟩ | hpop⟩ := step_count_or_fifo hs
    · exact absurd hlowered (by rw [hcount]; exact lt_irrefl _)
    · exact absurd hreset hrst
    · exact absurd hlowered (step_push_count_le hc hpush hs).not_gt
    · exact ⟨c, hc, hpop⟩
  · obtain ⟨t, r, ht, hr, -, hgot⟩ := step_pop_returns h (State.fifoEmpty_eq_false.mp hempty) hd
    exact ⟨t, r, ht, hr, hgot⟩
  · obtain ⟨t, r, ht, hr, -, hevicted⟩ := step_push_evicts_none h (State.fifoFull_eq_false.mp hfull) hd
    exact ⟨t, r, ht, hr, hevicted⟩

/-! ### The other agent's turns -/

theorem run_succ {s t : State} (h : step s = .next t) (k : Nat) :
    Sys2Proof.core.run (k + 1) s = Sys2Proof.core.run k t := by
  have hcore : Sys2Proof.core.step s = .next t := h
  simp only [Host.Core.run, hcore]

theorem run_one {s t : State} (h : step s = .next t) : Sys2Proof.core.run (0 + 1) s = .next t := run_succ h 0

theorem absPush_ne_nil (e : Entry) (q : List Entry) : absPush e q ≠ [] := by
  unfold absPush
  split <;> simp

/-- Only a pop can take the last entry. -/
theorem absCommand_ne_nil {c : Request} {q : List Entry} (hd : decode c.cmd ≠ .ok .fifoPop) (hq : q ≠ []) :
    (absCommand c q).1 ≠ [] := by
  cases hi : decode c.cmd with
  | error e => rwa [absCommand_error hi]
  | ok i =>
    rw [absCommand_ok hi]
    cases i with
    | crcCalc d0 d1 => exact hq
    | crcChk d0 d1 c => exact hq
    | f32Dec b0 b1 b2 b3 => exact hq
    | fifoPush p => exact absPush_ne_nil _ q
    | fifoPop => exact absurd hi hd

/-- A turn of a producer that issues no pops leaves something stored, and the consumer as it was. -/
theorem step_producer_turn {s : State} {ts : List Turn} (hown : s.Owned) (hstored : s.contents ≠ [])
    (hs : s.sched = .producer :: ts) :
    ∃ t, step s = .next t ∧ t.Owned ∧ t.contents ≠ [] ∧ t.sched = ts ∧ t.consumer = s.consumer := by
  obtain ⟨hnopop, hpops⟩ := hown
  obtain ⟨t, ht, hq, -, hproducer, hconsumer, hsched⟩ := step_refines_absStep s
  rw [State.takeTurn_of_producer hs] at hproducer hconsumer hsched
  rw [State.nextEvent_of_producer hs] at hq
  refine ⟨t, ht, ⟨fun r hr => ?_, fun r hr => hpops r (hconsumer ▸ hr)⟩, ?_, hsched, hconsumer⟩
  · have htail : t.producer = s.producer.tail := hproducer
    exact hnopop r (List.mem_of_mem_tail (htail ▸ hr))
  · rw [hq]
    cases hp : s.producer with
    | nil => exact hstored
    | cons c cs => exact absCommand_ne_nil (hnopop c (by simp [hp])) hstored

/-- A turn of a consumer that issues nothing but pops leaves room, and the producer as it was. -/
theorem step_consumer_turn {s : State} {ts : List Turn} (hown : s.Owned) (hroom : s.contents.length ≠ 20)
    (hs : s.sched = .consumer :: ts) :
    ∃ t, step s = .next t ∧ t.Owned ∧ t.contents.length ≠ 20 ∧ t.sched = ts ∧ t.producer = s.producer := by
  obtain ⟨hnopop, hpops⟩ := hown
  obtain ⟨t, ht, hq, -, hproducer, hconsumer, hsched⟩ := step_refines_absStep s
  rw [State.takeTurn_of_consumer hs] at hproducer hconsumer hsched
  rw [State.nextEvent_of_consumer hs] at hq
  refine ⟨t, ht, ⟨fun r hr => hnopop r (hproducer ▸ hr), fun r hr => ?_⟩, ?_, hsched, hproducer⟩
  · have htail : t.consumer = s.consumer.tail := hconsumer
    exact hpops r (List.mem_of_mem_tail (htail ▸ hr))
  · rw [hq]
    cases hc : s.consumer with
    | nil => exact hroom
    | cons c cs =>
      have hle := s.length_contents_le
      have hlen : (absCommand c s.contents).1.length = s.contents.length - 1 := by
        rw [absCommand_ok (hpops c (by simp [hc]))]
        exact List.length_tail
      rw [eventOf_cons, absStep, hlen]
      omega

/-- Any number of the producer's turns leave the consumer's next pop an entry to return. -/
theorem run_producer_turns_then_pop {k : Nat} {s : State} {ts : List Turn} {c : Request} {rest : List Request}
    (hown : s.Owned) (hstored : s.contents ≠ []) (hs : s.sched = List.replicate k .producer ++ .consumer :: ts)
    (hc : s.consumer = c :: rest) :
    ∃ t r, Sys2Proof.core.run (k + 1) s = .next t ∧ t.rsp = some r ∧ r.status = .ok ∧ r.got = true := by
  induction k generalizing s with
  | zero =>
    have hevent : s.nextEvent = .command c := by rw [State.nextEvent_of_consumer hs, hc, eventOf_cons]
    obtain ⟨-, hpops⟩ := hown
    have hpop : decode c.cmd = .ok .fifoPop := hpops c (by simp [hc])
    obtain ⟨t, r, ht, hr⟩ := step_pop_returns hevent hstored hpop
    exact ⟨t, r, run_one ht, hr⟩
  | succ k ih =>
    obtain ⟨t, ht, hownt, hstoredt, hst, hct⟩ := step_producer_turn hown hstored hs
    rw [run_succ ht]
    exact ih hownt hstoredt hst (hct.trans hc)

/-- Any number of the consumer's turns leave the producer's next push room. -/
theorem run_consumer_turns_then_push {k : Nat} {s : State} {ts : List Turn} {c : Request} {rest : List Request}
    {p : Bool} (hown : s.Owned) (hroom : s.contents.length ≠ 20)
    (hs : s.sched = List.replicate k .consumer ++ .producer :: ts) (hp : s.producer = c :: rest)
    (hpush : decode c.cmd = .ok (.fifoPush p)) :
    ∃ t r, Sys2Proof.core.run (k + 1) s = .next t ∧ t.rsp = some r ∧ r.status = .ok ∧ r.evicted = false := by
  induction k generalizing s with
  | zero =>
    have hevent : s.nextEvent = .command c := by rw [State.nextEvent_of_producer hs, hp, eventOf_cons]
    obtain ⟨t, r, ht, hr⟩ := step_push_evicts_none hevent hroom hpush
    exact ⟨t, r, run_one ht, hr⟩
  | succ k ih =>
    obtain ⟨t, ht, hownt, hroomt, hst, hpt⟩ := step_consumer_turn hown hroom hs
    rw [run_succ ht]
    exact ih hownt hroomt hst (hpt.trans hp)

/-- Settles O52: the other agent's turns keep what the output said (`run_producer_turns_then_pop`,
`run_consumer_turns_then_push`). -/
theorem singleAgentsCanTrustTheOutputs : Obligations.SingleAgentsCanTrustTheOutputs :=
  ⟨fun _ _ _ _ _ hown hempty hs hc => run_producer_turns_then_pop hown (State.fifoEmpty_eq_false.mp hempty) hs hc,
    fun _ _ _ _ _ _ hown hfull hs hp hpush =>
      run_consumer_turns_then_push hown (State.fifoFull_eq_false.mp hfull) hs hp hpush⟩

end Sys2Proof.Machine
end

section
/-! SUPPORT. The two agents as one stream of commands (20_memory.md R37, R38): the issuer is not seen, a schedule without
resets runs the merged stream, and the schedules' streams are the merges. -/

namespace Sys2Proof.Machine

/-- A state with the same ring, about to accept the same command, differs in nothing the command sees. -/
theorem State.SameRing.accept {s s' : State} (h : s.SameRing s') (c : Request) :
    (s.accept c).SameRing (s'.accept c) where
  slot := by rw [State.accept_slot, State.accept_slot, h.slot]
  head := by rw [State.accept_head, State.accept_head, h.head]
  count := by rw [State.accept_count, State.accept_count, h.count]

/-- Settles O53: accepting a command leaves the ring and the command's `wdata`, whoever issued it, and these decide what it
does (`execCommand_sameRing`). -/
theorem issuerIsNotSeen : Obligations.IssuerIsNotSeen := by
  intro s s' c ts ts' p p' q q' hslot hhead hcount hs hp _ hs' hc' _
  have hevent : s.nextEvent = .command c := by rw [State.nextEvent_of_producer hs, hp, eventOf_cons]
  have hevent' : s'.nextEvent = .command c := by rw [State.nextEvent_of_consumer hs', hc', eventOf_cons]
  have hring : s.SameRing s' := ⟨hslot, hhead, hcount⟩
  obtain ⟨t, t', r, ht, ht', hsame⟩ := execCommand_sameRing c (hring.accept c) rfl
  exact ⟨t.respond r, t'.respond r, (step_command hevent).trans ht, (step_command hevent').trans ht', rfl, hsame.slot,
    hsame.head, hsame.count⟩

/-! ### A schedule runs its stream -/

/-- The command an event brings into the stream. -/
def Event.requests : Event → List Request
  | .idle => []
  | .rst => []
  | .command c => [c]

/-- The stream of the commands still to come. -/
def State.stream (s : State) : List Request := mergedStream s.sched s.producer s.consumer

/-- The stream is the next event's command and then the stream after the turn. -/
theorem State.stream_eq (s : State) : s.stream = s.nextEvent.requests ++ s.takeTurn.stream := by
  cases hs : s.sched with
  | nil => rw [State.takeTurn_of_nil hs, State.nextEvent_of_nil hs]; rfl
  | cons turn ts =>
    cases turn with
    | rst =>
      rw [State.takeTurn_of_rst hs, State.nextEvent_of_rst hs, State.stream, hs]
      rfl
    | producer =>
      rw [State.takeTurn_of_producer hs, State.nextEvent_of_producer hs, State.stream, hs]
      cases hp : s.producer with
      | nil => rfl
      | cons c cs => simp [State.stream, mergedStream, Event.requests]
    | consumer =>
      rw [State.takeTurn_of_consumer hs, State.nextEvent_of_consumer hs, State.stream, hs]
      cases hc : s.consumer with
      | nil => cases s.producer <;> simp [State.stream, mergedStream, Event.requests]
      | cons c cs => simp [State.stream, mergedStream, Event.requests]

theorem State.SameAgents.stream {s t : State} (h : s.SameAgents t) : s.stream = t.stream := by
  rw [State.stream, h.sched, h.producer, h.consumer, State.stream]

theorem State.takeTurn_sched (s : State) : s.takeTurn.sched = s.sched.tail := by
  cases hs : s.sched with
  | nil => rw [State.takeTurn_of_nil hs, hs, List.tail_nil]
  | cons turn ts =>
    cases turn with
    | rst => rw [State.takeTurn_of_rst hs, List.tail_cons]
    | producer => rw [State.takeTurn_of_producer hs, List.tail_cons]
    | consumer => rw [State.takeTurn_of_consumer hs, List.tail_cons]

theorem eventOf_ne_rst (cs : List Request) : eventOf cs ≠ .rst := by
  cases cs <;> exact Event.noConfusion

/-- A reset comes next only where the schedule has one. -/
theorem State.nextEvent_ne_rst {s : State} (h : Turn.rst ∉ s.sched) : s.nextEvent ≠ .rst := by
  cases hs : s.sched with
  | nil => rw [State.nextEvent_of_nil hs]; exact Event.noConfusion
  | cons turn ts =>
    cases turn with
    | rst => exact absurd (hs ▸ List.mem_cons_self) h
    | producer => rw [State.nextEvent_of_producer hs]; exact eventOf_ne_rst _
    | consumer => rw [State.nextEvent_of_consumer hs]; exact eventOf_ne_rst _

/-- A step that is no reset leaves the ring that running its event's command leaves, and the stream after the turn. -/
theorem step_runs_requests {s : State} (h : s.nextEvent ≠ .rst) : ∃ t rs t', step s = .next t ∧
    runCommands s.nextEvent.requests s = some (rs, t') ∧ t'.SameRing t ∧ t.stream = s.takeTurn.stream ∧
    t.sched = s.sched.tail := by
  obtain ⟨hevent, hs⟩ | ⟨hevent, -⟩ | ⟨c, hevent, hs⟩ := step_cases s
  · rw [hevent]
    exact ⟨_, [], s, hs, rfl, ⟨s.idle_slot.symm, s.idle_head.symm, s.idle_count.symm⟩, rfl, s.takeTurn_sched⟩
  · exact absurd hevent h
  · have hring : ({ s with wdata := c.wdata } : State).SameRing (s.accept c) :=
      ⟨(s.accept_slot c).symm, (s.accept_head c).symm, (s.accept_count c).symm⟩
    obtain ⟨t', t, r, ht', ht, hsame⟩ := execCommand_sameRing c hring rfl
    have hagents := execCommand_sameAgents ht
    rw [hevent]
    exact ⟨t.respond r, [r], t'.respond r, hs.trans ht, runCommands_cons ht' rfl (runCommands_nil _), hsame.respond r,
      hagents.stream, hagents.sched.trans s.takeTurn_sched⟩

/-- Running the machine for the whole schedule leaves the ring that the stream leaves. -/
theorem run_leaves_ring_of_stream {n : Nat} {s : State} (hlen : s.sched.length = n) (hrst : Turn.rst ∉ s.sched) :
    ∃ rs t u, runCommands s.stream s = some (rs, t) ∧ Sys2Proof.core.run n s = .next u ∧ u.SameRing t := by
  induction n generalizing s with
  | zero =>
    have hnil : s.sched = [] := List.eq_nil_of_length_eq_zero hlen
    exact ⟨[], s, s, by rw [State.stream, hnil]; rfl, rfl, State.SameRing.refl s⟩
  | succ n ih =>
    obtain ⟨t, rs, t', ht, hrun, hring, hstream, hsched⟩ := step_runs_requests (State.nextEvent_ne_rst hrst)
    have hlent : t.sched.length = n := by rw [hsched, List.length_tail, hlen, Nat.add_sub_cancel]
    have hrstt : Turn.rst ∉ t.sched := fun hmem => hrst (List.mem_of_mem_tail (hsched ▸ hmem))
    obtain ⟨rs', v, u, hv, hu, huv⟩ := ih hlent hrstt
    obtain ⟨qs, v', w, hv', hw, -, hvw⟩ := runCommands_sameRing t.stream hring
    cases hv.symm.trans hw
    refine ⟨rs ++ rs', v', u, ?_, (run_succ ht n).trans hu, huv.trans hvw.symm⟩
    rw [s.stream_eq, ← hstream]
    exact runCommands_append hrun hv'

/-- Settles O54: step by step the machine runs the stream (`run_leaves_ring_of_stream`). -/
theorem scheduleRunsTheMergedStream : Obligations.ScheduleRunsTheMergedStream := by
  intro s hrst
  obtain ⟨rs, t, u, ht, hu, hring⟩ := run_leaves_ring_of_stream rfl hrst
  exact ⟨rs, t, u, ht, hu, hring.slot, hring.head, hring.count⟩

/-! ### Schedules and merges -/

/-- A merge is the stream of the schedule that gives the turn to the agent whose command comes next. -/
theorem Interleaves.exists_schedule {p c l : List Request} (h : Interleaves p c l) :
    ∃ sched : List Turn, Turn.rst ∉ sched ∧ sched.count .producer = p.length ∧ sched.count .consumer = c.length ∧
      mergedStream sched p c = l := by
  induction h with
  | nil => exact ⟨[], List.not_mem_nil, rfl, rfl, rfl⟩
  | left r _ ih =>
    obtain ⟨sched, hrst, hp, hc, hl⟩ := ih
    exact ⟨.producer :: sched, by simpa using hrst, by simpa using hp, by simpa using hc, by rw [mergedStream, hl]⟩
  | right r _ ih =>
    obtain ⟨sched, hrst, hp, hc, hl⟩ := ih
    exact ⟨.consumer :: sched, by simpa using hrst, by simpa using hp, by simpa using hc, by rw [mergedStream, hl]⟩

/-- The stream of a schedule that uses up both agents' commands keeps the order of each. -/
theorem interleaves_mergedStream {sched : List Turn} {p c : List Request} (hrst : Turn.rst ∉ sched)
    (hp : sched.count .producer = p.length) (hc : sched.count .consumer = c.length) :
    Interleaves p c (mergedStream sched p c) := by
  induction sched generalizing p c with
  | nil =>
    cases List.eq_nil_of_length_eq_zero hp.symm
    cases List.eq_nil_of_length_eq_zero hc.symm
    exact .nil
  | cons turn ts ih =>
    have hrstts : Turn.rst ∉ ts := fun hmem => hrst (List.mem_cons_of_mem turn hmem)
    cases turn with
    | rst => exact absurd List.mem_cons_self hrst
    | producer =>
      cases p with
      | nil => simp at hp
      | cons r p => exact .left r (ih hrstts (by simpa using hp) (by simpa using hc))
    | consumer =>
      cases c with
      | nil => simp at hc
      | cons r c =>
        rw [mergedStream]
        exact .right r (ih hrstts (by simpa using hp) (by simpa using hc))

/-- Settles O55: the two directions (`Interleaves.exists_schedule`, `interleaves_mergedStream`). -/
theorem schedulesAreTheMerges : Obligations.SchedulesAreTheMerges := by
  intro p c l
  constructor
  · exact Interleaves.exists_schedule
  · rintro ⟨sched, hrst, hp, hc, rfl⟩
    exact interleaves_mergedStream hrst hp hc

end Sys2Proof.Machine
end
